-- ==== Sys2Proof/Config.lean ====
section
/-! DEFINITION. The parameters of the block (00_scope.md R5), one constant for each row of its table, and the one
free value, the random source. `FONT_BASE` and `FONT` stand in Sys2Proof/Machine/Font.lean, beside the memory
contents they fix. The types of the state and the operations are written with these constants. -/

namespace Sys2Proof

/-- `MEM_SIZE`: the memory holds 4096 bytes (R5, R21). -/
abbrev Config.memSize : Nat := 4096

/-- `PROG_START`: the program region and the entry point (R5, R22). -/
abbrev Config.progStart : Nat := 0x200

/-- `PROG_MAX` = `MEM_SIZE - PROG_START`, 3584 bytes: the longest program image (R5, R201). -/
abbrev Config.progMax : Nat := Config.memSize - Config.progStart

/-- `NUM_V`: general registers (R5, R10). -/
abbrev Config.numV : Nat := 16

/-- `NUM_V`'s "of 8 bits": the width of a general register (R5, R10). -/
abbrev Config.vWidth : Nat := 8

/-- `I_WIDTH`: bits of the index register (R5, R12). -/
abbrev Config.iWidth : Nat := 16

/-- `PC_WIDTH`: bits of the program counter (R5, R13). -/
abbrev Config.pcWidth : Nat := 16

/-- `STACK_DEPTH`: return addresses the stack holds (R5, R14). -/
abbrev Config.stackDepth : Nat := 16

/-- `STACK_DEPTH`'s "of 16 bits": the width of a stack slot (R5, R15). -/
abbrev Config.slotWidth : Nat := 16

/-- `SP` range: `SP` is a depth of 0 to 16, so the largest value is the stack's depth (R5, R14, D15). -/
abbrev Config.spMax : Nat := Config.stackDepth

/-- `NUM_KEYS`: keys of the input latch (R5, R18). -/
abbrev Config.numKeys : Nat := 16

/-- `FB_W`: columns of the framebuffer (R5, R19). -/
abbrev Config.fbWidth : Nat := 64

/-- `FB_H`: rows of the framebuffer (R5, R19). -/
abbrev Config.fbHeight : Nat := 32

/-- `SPRITE_W`: columns of a sprite (R5, R171). -/
abbrev Config.spriteWidth : Nat := 8

/-- `INSN_BYTES`: bytes of an instruction (R5, R60). -/
abbrev Config.insnBytes : Nat := 2

/-- `GLYPH_BYTES`: bytes of one glyph of the font (R5, R23). -/
abbrev Config.glyphBytes : Nat := 5

/-- The glyphs of the font, one for each hexadecimal digit (R23). -/
abbrev Config.numGlyphs : Nat := 16

/-- `rng`, `draw8()` (R5, R7, R160): the byte the random source supplies to the `k`-th execution of RND. A FREE
VALUE: the spec fixes its statistics alone, so it has no body and nothing can be proved of a value of it.
Log entry 1. -/
opaque Config.draw : Nat → BitVec Config.vWidth

end Sys2Proof
end

