-- ==== Sys2Proof/Word.lean ====
section
/-! DEFINITION. The values of the machine (00_scope.md R5, R6): bytes, 16-bit words, 12-bit addresses and the numbers
of registers and keys. Every value is unsigned; bits are numbered from 0 at the least significant end. -/

namespace Sys2Proof

/-- An unsigned 8-bit value: a memory cell, a timer, an immediate `nn`, what a general register holds (R6, R10). -/
abbrev Byte := BitVec 8

/-- An unsigned 16-bit value: an instruction word, and what `I`, `PC` and a stack slot hold (R12, R13, R15, R60). -/
abbrev Word := BitVec 16

/-- The 12-bit address field `nnn` of an instruction word (R62). -/
abbrev Addr := BitVec 12

/-- The number of a general register `V0` .. `VF`: a 4-bit selector can name no other (R10, R64). -/
abbrev Reg := Fin Config.numV

/-- The number of a key of the latch, `0x0` .. `0xF` (R9, R18). -/
abbrev KeyCode := Fin Config.numKeys

/-- A column of the framebuffer, counted from the left (R19). -/
abbrev Column := Fin Config.fbWidth

/-- A row of the framebuffer, counted from the top (R19). -/
abbrev Row := Fin Config.fbHeight

/-- `VF`, the general register that doubles as the flag (R11). -/
abbrev VF : Reg := 15

/-- `V0`, which `JP V0` reads implicitly (R10, R108). -/
abbrev V0 : Reg := 0

end Sys2Proof
end

