-- ==== Sys2Proof/Syntax.lean ====
section
/-! DEFINITION. The instruction set as syntax: one constructor for each of the 35 rows of the opcode map
(30_encoding.md R66, spec/opcode_table.json), in the table's order. Operands are register numbers, 12-bit
addresses, 8-bit immediates and the 4-bit height of R62 and R64. -/

namespace Sys2Proof

inductive Instr where
  /-- `00E0` CLS: clear the screen (R170). -/
  | cls
  /-- `00EE` RET: return from a call (R101). -/
  | ret
  /-- `0nnn` SYS nnn: the named slot that faults (R100). -/
  | sys (nnn : Addr)
  /-- `1nnn` JP nnn (R102). -/
  | jp (nnn : Addr)
  /-- `2nnn` CALL nnn (R103). -/
  | call (nnn : Addr)
  /-- `3xnn` SE Vx, nn (R104). -/
  | seImm (x : Reg) (nn : Byte)
  /-- `4xnn` SNE Vx, nn (R105). -/
  | sneImm (x : Reg) (nn : Byte)
  /-- `5xy0` SE Vx, Vy (R106). -/
  | seReg (x y : Reg)
  /-- `6xnn` LD Vx, nn (R120). -/
  | ldImm (x : Reg) (nn : Byte)
  /-- `7xnn` ADD Vx, nn (R121). -/
  | addImm (x : Reg) (nn : Byte)
  /-- `8xy0` LD Vx, Vy (R131). -/
  | ldReg (x y : Reg)
  /-- `8xy1` OR Vx, Vy (R132). -/
  | orReg (x y : Reg)
  /-- `8xy2` AND Vx, Vy (R133). -/
  | andReg (x y : Reg)
  /-- `8xy3` XOR Vx, Vy (R134). -/
  | xorReg (x y : Reg)
  /-- `8xy4` ADD Vx, Vy (R135). -/
  | addReg (x y : Reg)
  /-- `8xy5` SUB Vx, Vy (R136). -/
  | subReg (x y : Reg)
  /-- `8xy6` SHR Vx; `y` is decoded and not used (R69, R137). -/
  | shr (x y : Reg)
  /-- `8xy7` SUBN Vx, Vy (R138). -/
  | subnReg (x y : Reg)
  /-- `8xyE` SHL Vx; `y` is decoded and not used (R69, R139). -/
  | shl (x y : Reg)
  /-- `9xy0` SNE Vx, Vy (R107). -/
  | sneReg (x y : Reg)
  /-- `Annn` LD I, nnn (R150). -/
  | ldI (nnn : Addr)
  /-- `Bnnn` JP V0, nnn (R108). -/
  | jpV0 (nnn : Addr)
  /-- `Cxnn` RND Vx, nn (R161). -/
  | rnd (x : Reg) (nn : Byte)
  /-- `Dxyn` DRW Vx, Vy, n; `n` is the height in rows, 0 to 15 (R172). -/
  | drw (x y : Reg) (n : Fin 16)
  /-- `Ex9E` SKP Vx (R180). -/
  | skp (x : Reg)
  /-- `ExA1` SKNP Vx (R181). -/
  | sknp (x : Reg)
  /-- `Fx07` LD Vx, DT (R190). -/
  | ldVxDT (x : Reg)
  /-- `Fx0A` LD Vx, K (R182). -/
  | ldVxK (x : Reg)
  /-- `Fx15` LD DT, Vx (R191). -/
  | ldDTVx (x : Reg)
  /-- `Fx18` LD ST, Vx (R192). -/
  | ldSTVx (x : Reg)
  /-- `Fx1E` ADD I, Vx (R151). -/
  | addI (x : Reg)
  /-- `Fx29` LD F, Vx (R152). -/
  | ldF (x : Reg)
  /-- `Fx33` LD B, Vx (R193). -/
  | ldB (x : Reg)
  /-- `Fx55` LD [I], Vx (R194). -/
  | storeRegs (x : Reg)
  /-- `Fx65` LD Vx, [I] (R195). -/
  | loadRegs (x : Reg)
  deriving DecidableEq, Repr

end Sys2Proof
end

