-- ==== Sys2Proof/WellFormed.lean ====
section
/-! DEFINITION. Which terms of Instr stand for a word of the opcode map. The operand types already hold every
field to its width (R62, R64), so the one check left is R67's: `0x00E0` and `0x00EE` are CLS and RET, not SYS. -/

namespace Sys2Proof

/-- `nnn` may stand in a SYS word: it is neither 0x0E0 (CLS) nor 0x0EE (RET) (R66 row 1, R67, R100). -/
def sysOperandOk (nnn : Addr) : Bool := nnn != 0x0E0#12 && nnn != 0x0EE#12

/-- The instruction is one that some word encodes (R66, R67). -/
def Instr.wellFormed : Instr → Bool
  | .sys nnn => sysOperandOk nnn
  | .cls | .ret | .jp _ | .call _ | .seImm _ _ | .sneImm _ _ | .seReg _ _ | .ldImm _ _ | .addImm _ _
  | .ldReg _ _ | .orReg _ _ | .andReg _ _ | .xorReg _ _ | .addReg _ _ | .subReg _ _ | .shr _ _
  | .subnReg _ _ | .shl _ _ | .sneReg _ _ | .ldI _ | .jpV0 _ | .rnd _ _ | .drw _ _ _ | .skp _ | .sknp _
  | .ldVxDT _ | .ldVxK _ | .ldDTVx _ | .ldSTVx _ | .addI _ | .ldF _ | .ldB _ | .storeRegs _
  | .loadRegs _ => true

end Sys2Proof
end

