-- ==== Sys2Proof/Machine/Font.lean ====
section
/-! DEFINITION. The glyph font (10_state.md R23) and the memory contents after reset (R22, R27, R45). The font's
place and bytes are parameters of the spec (decision D12) at the values it gives. Log entry 4. -/

namespace Sys2Proof.Machine

/-- `FONT_BASE` (R5, R23): where reset puts the font. -/
def fontBase : Nat := 0x050

/-- `FONT` (R23): the 16 glyphs of 5 bytes each, digit 0 first, top row first. -/
def fontBytes : List Byte :=
  [0xF0, 0x90, 0x90, 0x90, 0xF0,
   0x20, 0x60, 0x20, 0x20, 0x70,
   0xF0, 0x10, 0xF0, 0x80, 0xF0,
   0xF0, 0x10, 0xF0, 0x10, 0xF0,
   0x90, 0x90, 0xF0, 0x10, 0x10,
   0xF0, 0x80, 0xF0, 0x10, 0xF0,
   0xF0, 0x80, 0xF0, 0x90, 0xF0,
   0xF0, 0x10, 0x20, 0x40, 0x40]
  ++
  [0xF0, 0x90, 0xF0, 0x90, 0xF0,
   0xF0, 0x90, 0xF0, 0x10, 0xF0,
   0xF0, 0x90, 0xF0, 0x90, 0x90,
   0xE0, 0x90, 0xE0, 0x90, 0xE0,
   0xF0, 0x80, 0x80, 0x80, 0xF0,
   0xE0, 0x90, 0x90, 0x90, 0xE0,
   0xF0, 0x80, 0xF0, 0x80, 0xF0,
   0xF0, 0x80, 0xF0, 0x80, 0x80]

/-- What `mem[a]` holds after reset (R27): the font byte inside the font's range, 0 everywhere else. It is what an
address the memory does not list reads as. -/
def initialByte (a : Nat) : Byte :=
  if fontBase ≤ a then fontBytes.getD (a - fontBase) 0x00#8 else 0x00#8

/-- The address of the glyph of digit `d`: `FONT_BASE + 5*d` (R23, R152). -/
def glyphAddress (d : Fin Config.numGlyphs) : Word :=
  BitVec.ofNat Config.iWidth (fontBase + Config.glyphBytes * d.val)

end Sys2Proof.Machine
end

