-- ==== Sys2Proof/Machine/State.lean ====
section
/-! DEFINITION. The architectural state (10_state.md), the fault record (R204), and the state after reset (R27). -/

namespace Sys2Proof.Machine

/-- The kinds of bounds fault, category (c) of R200, each with the instructions that raise it (R203).
Raising one is the fault entry of R205: a next state, with the record in `status`. -/
inductive BoundsKind where
  /-- Instruction fetch at `PC + 1 >= 4096`. -/
  | fetch
  /-- DRW and LD Vx, [I]: a byte read at 4096 or above. -/
  | memRead
  /-- LD B, Vx and LD [I], Vx: a byte written at 4096 or above. -/
  | memWrite
  /-- CALL with 16 addresses stacked. -/
  | stackOverflow
  /-- RET with none stacked. -/
  | stackUnderflow
  /-- SKP and SKNP with `V[x]` above 15. -/
  | keyIndex
  /-- LD F, Vx with `V[x]` above 15. -/
  | glyphIndex
  deriving DecidableEq, Repr

/-- The fault record: a category and the one offending value (R204). -/
inductive Cause where
  /-- Category (a): `load_program` was given an image of this many bytes, more than 3584 (R201). -/
  | loadError (len : Nat)
  /-- Category (b): the word fetched is illegal (R68, R202). -/
  | decodeFault (w : Word)
  /-- Category (c): an address, depth or index out of bounds (R203). -/
  | bounds (kind : BoundsKind) (value : Nat)
  deriving DecidableEq, Repr

/-- `status` (R24). -/
inductive Status where
  | running
  | faulted (cause : Cause)
  deriving DecidableEq, Repr

/-- Reasons for which a step would stop with the host's `fault` outcome: NONE, so the type is empty. Every
fault of the spec has an entry it describes (R205: `status` becomes `Faulted`, all else stays), which the model
takes as a next state. Log entry 2. Safe. -/
inductive Fault where
  deriving DecidableEq, Repr

/-- Reasons for which the model gives an instruction no meaning. -/
inductive Refusal where
  /-- An arm of `exec` not yet written. No arm raises it: all 35 rows have their meaning. Safe. -/
  | notModelled (mnemonic : String)
  deriving DecidableEq, Repr

/-- `mem[0..4095]` (R21) as address and byte pairs in one canonical form: addresses strictly rising, and no pair
equal to what an unlisted address reads as (`initialByte`). Log entry 3. -/
abbrev Memory := List Host.Cell

/-- The framebuffer, `fb[y][x]`: 32 rows of 64 one-bit pixels (R19). -/
abbrev Screen := Vector (Vector Bool Config.fbWidth) Config.fbHeight

/-- Everything the spec gives the machine, and one field of the model's own (`draws`). -/
structure State where
  /-- `V[0]` .. `V[15]` (R10). -/
  regs : Vector (BitVec Config.vWidth) Config.numV
  /-- `I`, the index register; not masked to 12 bits (R12). -/
  index : BitVec Config.iWidth
  /-- `PC`; not masked, any parity (R13). -/
  pc : BitVec Config.pcWidth
  /-- `SP`, a depth of 0 to 16 (R14). -/
  sp : Fin (Config.spMax + 1)
  /-- `stack[0..15]`, a store of its own (R15). -/
  stack : Vector (BitVec Config.slotWidth) Config.stackDepth
  /-- `DT`, the delay timer (R16). -/
  dt : Byte
  /-- `ST`, the sound timer (R17). -/
  st : Byte
  /-- `key[0..15]`, the input latch: true while the key is held (R18). -/
  keys : Vector Bool Config.numKeys
  /-- `fb[0..31][0..63]`, the framebuffer (R19). -/
  fb : Screen
  /-- `redraw`, the redraw-pending flag (R20). -/
  redraw : Bool
  /-- `mem[0..4095]` (R21). -/
  mem : Memory
  /-- `status` with its fault record (R24). -/
  status : Status
  /-- The MODEL's own: how many draws RND has consumed, the argument of `Config.draw`. Log entry 1. -/
  draws : Nat
  deriving DecidableEq, Repr

/-- The machine after `reset` and after construction (R27, R230, R231): every field at the value R27 gives it.
Nothing is listed in memory: an unlisted byte reads as R27's reset contents, the font and zeros. `draws` is the
model's own (log entry 1). -/
def State.reset : State where
  regs := Vector.replicate Config.numV 0x00#8
  index := 0x0000#16
  pc := BitVec.ofNat Config.pcWidth Config.progStart
  sp := 0
  stack := Vector.replicate Config.stackDepth 0x0000#16
  dt := 0x00#8
  st := 0x00#8
  keys := Vector.replicate Config.numKeys false
  fb := Vector.replicate Config.fbHeight (Vector.replicate Config.fbWidth false)
  redraw := true
  mem := []
  status := .running
  draws := 0

end Sys2Proof.Machine
end

