-- ==== Sys2Proof/Machine/Ops.lean ====
section
/-! DEFINITION. The named operations over the state that every instruction is written in: registers, memory with
its bounds check, the stack, the program counter's four outcomes, fault entry, the timer tick and the fetch. -/

namespace Sys2Proof.Machine

/-- What executing an instruction answers. -/
abbrev Result := Host.Outcome State Fault Refusal

/-! ### Registers and the other single fields (10_state.md) -/

/-- `V[r]` (R7, R10). -/
def State.reg (s : State) (r : Reg) : Byte := s.regs[r]

/-- `V[r] <- v` (R7). -/
def State.setReg (s : State) (r : Reg) (v : Byte) : State := { s with regs := s.regs.set r v }

/-- `I <- v`. -/
def State.setIndex (s : State) (v : Word) : State := { s with index := v }

/-- `PC <- target`. -/
def State.setPc (s : State) (target : Word) : State := { s with pc := target }

/-- `DT <- v`. -/
def State.setDT (s : State) (v : Byte) : State := { s with dt := v }

/-- `ST <- v`. -/
def State.setST (s : State) (v : Byte) : State := { s with st := v }

/-- `key[k]` (R18). -/
def State.key (s : State) (k : KeyCode) : Bool := s.keys[k]

/-- The memory replaced by one that a store computed. -/
def State.setMem (s : State) (m : Memory) : State := { s with mem := m }

/-- The framebuffer replaced and `redraw <- true`: CLS and DRW do both, always together (R20). -/
def State.setScreen (s : State) (fb : Screen) : State := { s with fb := fb, redraw := true }

/-- `status <- st` (R24). -/
def State.setStatus (s : State) (st : Status) : State := { s with status := st }

/-- One draw of the random source is consumed (R161). -/
def State.countDraw (s : State) : State := { s with draws := s.draws + 1 }

/-! ### The program counter's outcomes (R82); `hold` leaves the state as it is -/

/-- The address after an instruction at `pc`: `pc + INSN_BYTES`, in `PC_WIDTH` bits. -/
def nextAddress (pc : Word) : Word := pc + BitVec.ofNat Config.pcWidth Config.insnBytes

/-- `next`: `PC <- PC + 2`, in 16 bits. -/
def State.next (s : State) : State := s.setPc (nextAddress s.pc)

/-- `skip`: `PC <- PC + 4`, in 16 bits. -/
def State.skip (s : State) : State := s.setPc (s.pc + BitVec.ofNat Config.pcWidth (2 * Config.insnBytes))

/-- `if test then skip else next`. -/
def State.skipIf (s : State) (test : Bool) : State := if test then s.skip else s.next

/-! ### Fault entry (R205) and the faults' checks (R203) -/

/-- Taking a fault, the one operation every raise goes through: `status` becomes `Faulted(cause)`, every other
piece of state stays (R83, R205). There is no handler and no return from a fault (R206): the ways out are the
host's `reset` and `load_program`. -/
def takeFault (c : Cause) (s : State) : Result := .next (s.setStatus (.faulted c))

/-- The bounds check of an access to `len` consecutive bytes from `base`, an unbounded natural (R42): it fails
iff the highest address is 4096 or more, and reports the lowest address out of range. No byte, no fault. -/
def checkRange (kind : BoundsKind) (base len : Nat) : Except Cause Unit :=
  if len = 0 ∨ base + len ≤ Config.memSize then .ok ()
  else .error (.bounds kind (max Config.memSize base))

/-- The check of an index into a store of `count` entries: the key latch or the font's glyphs (R152, R180). -/
def checkIndex (kind : BoundsKind) (count : Nat) (v : Byte) : Except Cause (Fin count) :=
  if h : v.toNat < count then .ok ⟨v.toNat, h⟩ else .error (.bounds kind v.toNat)

/-! ### Memory (R21, R40 to R48): one byte at a time -/

/-- `mem[a]`: the listed byte, or the reset contents of an address that is not listed. -/
def Memory.read : Memory → Nat → Byte
  | [], a => initialByte a
  | (b, v) :: m, a => if a < b then initialByte a else if a = b then v else Memory.read m a

/-- `mem[a] <- v`, keeping the canonical form: writing what an unlisted address reads as removes the entry. -/
def Memory.write : Memory → Nat → Byte → Memory
  | [], a, v => if v = initialByte a then [] else [(a, v)]
  | (b, u) :: m, a, v =>
    if a < b then (if v = initialByte a then (b, u) :: m else (a, v) :: (b, u) :: m)
    else if a = b then (if v = initialByte a then m else (a, v) :: m)
    else (b, u) :: Memory.write m a v

/-- The canonical form from address `lo` on: every listed address is at least `lo`, below 4096, above the one
before it, and its byte differs from what it would read as unlisted. -/
def Memory.wfFrom : Nat → Memory → Bool
  | _, [] => true
  | lo, (a, v) :: m =>
    decide (lo ≤ a) && decide (a < Config.memSize) && (v != initialByte a) && Memory.wfFrom (a + 1) m

/-- The memory is in its canonical form. -/
def Memory.wf (m : Memory) : Bool := Memory.wfFrom 0 m

/-- The `n` bytes from `base` upward. -/
def Memory.readBytes (m : Memory) (base : Nat) : Nat → List Byte
  | 0 => []
  | n + 1 => Memory.read m base :: Memory.readBytes m (base + 1) n

/-- The bytes written from `base` upward, in order. -/
def Memory.writeBytes (m : Memory) (base : Nat) : List Byte → Memory
  | [] => m
  | v :: vs => Memory.writeBytes (Memory.write m base v) (base + 1) vs

/-- `mem[a]` of a state. -/
def State.readByte (s : State) (a : Nat) : Byte := Memory.read s.mem a

/-- `MemRead` of `n` bytes from `I + 0` upward, all addresses checked first (R42). -/
def readFromIndex (n : Nat) (s : State) : Except Cause (List Byte) :=
  match checkRange .memRead s.index.toNat n with
  | .ok _ => .ok (Memory.readBytes s.mem s.index.toNat n)
  | .error c => .error c

/-- `MemWrite` of the bytes from `I + 0` upward, all addresses checked first (R42). -/
def writeFromIndex (bytes : List Byte) (s : State) : Except Cause State :=
  match checkRange .memWrite s.index.toNat bytes.length with
  | .ok _ => .ok (s.setMem (Memory.writeBytes s.mem s.index.toNat bytes))
  | .error c => .error c

/-! ### The stack (R15) -/

/-- `push(a)`: overflow when 16 addresses are stacked, else `stack[SP] <- a; SP <- SP + 1`. -/
def push (a : Word) (s : State) : Except Cause State :=
  if h : s.sp.val < Config.stackDepth then
    .ok { s with stack := s.stack.set s.sp.val a h, sp := ⟨s.sp.val + 1, Nat.succ_lt_succ h⟩ }
  else .error (.bounds .stackOverflow Config.stackDepth)

/-- `pop()`: underflow when none is stacked, else `SP <- SP - 1` and the answer is `stack[SP]`; the slot keeps its
contents. -/
def pop (s : State) : Except Cause (Word × State) :=
  if h : s.sp.val = 0 then .error (.bounds .stackUnderflow 0)
  else .ok (s.stack[s.sp.val - 1]'(Nat.lt_of_lt_of_le (Nat.sub_one_lt h) (Nat.le_of_lt_succ s.sp.isLt)),
    { s with sp := ⟨s.sp.val - 1, Nat.lt_of_le_of_lt (Nat.sub_le _ _) s.sp.isLt⟩ })

/-! ### The timer tick (R220) and the end of a step (R80, R83) -/

/-- One timer after a tick: down by 1, stopping at 0. -/
def tickTimer (t : Byte) : Byte := if t = 0#8 then 0#8 else t - 1#8

/-- `tick()`: both timers, independently. -/
def State.tick (s : State) : State := { s with dt := tickTimer s.dt, st := tickTimer s.st }

/-- What follows the instruction in a step: the tick, unless the instruction faulted. -/
def State.finish (s : State) : State :=
  match s.status with
  | .running => s.tick
  | .faulted _ => s

/-! ### Fetch and decode (R61, R80) -/

/-- The word at `PC` and `PC + 1`, high byte first; a fetch that reaches 4096 faults with the lowest address out
of range. `PC` may be odd (R44). -/
def fetchWord (s : State) : Except Cause Word :=
  match checkRange .fetch s.pc.toNat Config.insnBytes with
  | .ok _ => .ok (wordOfBytes (s.readByte s.pc.toNat) (s.readByte (s.pc.toNat + 1)))
  | .error c => .error c

/-- Fetch, then decode: a word of no row is a decode fault that records the word (R68, R202, R207). -/
def fetchInstr (s : State) : Except Cause Instr :=
  match fetchWord s with
  | .error c => .error c
  | .ok w =>
    match decodeWord w with
    | .ok i => .ok i
    | .error _ => .error (.decodeFault w)

/-- The bytes of a word stored at `a` and `a + 1`, high byte first: the inverse of the fetch. -/
def State.storeWord (s : State) (a : Nat) (w : Word) : State :=
  s.setMem (Memory.writeBytes s.mem a [w.extractLsb' 8 8, w.extractLsb' 0 8])

end Sys2Proof.Machine
end

