-- ==== Sys2Proof/Machine/Flags.lean ====
section
/-! DEFINITION. The flag computations (10_state.md R11, 42_alu.md R130): VF is written as exactly 0 or 1, computed
from the operands alone, and written last. -/

namespace Sys2Proof.Machine

/-- A flag as a register value: 0x01 or 0x00 (R11). -/
def flagByte (b : Bool) : Byte := if b then 0x01#8 else 0x00#8

/-- ADD Vx, Vy: the unsigned sum exceeds 255 (R135). -/
def carryOut (a b : Byte) : Bool := decide (a.toNat + b.toNat > 255)

/-- SUB, SUBN: no borrow, the minuend is at least the subtrahend (R136, R138). -/
def noBorrow (minuend subtrahend : Byte) : Bool := decide (minuend.toNat ≥ subtrahend.toNat)

/-- SHR: the bit shifted out, `a[0]` (R137). -/
def lowBit (a : Byte) : Bool := a.getLsbD 0

/-- SHL: the bit shifted out, `a[7]` (R139). -/
def highBit (a : Byte) : Bool := a.getLsbD 7

/-- ADD I, Vx: the unreduced sum exceeds 0xFFF, the last address of the memory (R151). -/
def indexOverflow (i : Word) (a : Byte) : Bool := decide (i.toNat + a.toNat > 0x0FFF)

/-- The result to `V[x]`, then the flag to VF, which so survives when `x = 15` (R130). -/
def State.setRegFlag (s : State) (x : Reg) (result : Byte) (flag : Bool) : State :=
  (s.setReg x result).setReg VF (flagByte flag)

end Sys2Proof.Machine
end

