-- ==== Sys2Proof/Machine/Operands.lean ====
section
/-! DEFINITION. The operand forms (30_encoding.md R64): registers, immediates and addresses used as they stand,
the index register as the only address register, the key latch and the block of registers of a bulk transfer. -/

namespace Sys2Proof.Machine

/-- `zext_16(nnn)`: an address field as a value of `PC` or `I` (R64). -/
def zextAddr (nnn : Addr) : Word := BitVec.setWidth Config.pcWidth nnn

/-- `zext_16(v)`: a byte widened to 16 bits (R64, R108). -/
def zextByte (v : Byte) : Word := BitVec.setWidth Config.pcWidth v

/-- The target of JP V0: `nnn + V0`, in 16 bits, not reduced modulo 4096 (R108). -/
def offsetTarget (nnn : Addr) (v0 : Byte) : Word := zextAddr nnn + zextByte v0

/-- `V[0]` .. `V[x]`, ascending: what LD [I], Vx stores (R194). -/
def State.regsUpTo (s : State) (x : Reg) : List Byte := s.regs.toList.take (x.val + 1)

/-- `V[0]` .. `V[x]` replaced by the bytes, ascending: what LD Vx, [I] loads (R195). -/
def State.setRegsUpTo (s : State) (x : Reg) (bytes : List Byte) : State :=
  { s with regs := Vector.ofFn fun k : Reg => if k ≤ x then bytes.getD k.val (s.reg k) else s.reg k }

/-- The lowest-numbered held key, if any (R182). -/
def State.lowestKey (s : State) : Option KeyCode := (List.finRange Config.numKeys).find? fun k => s.key k

/-- A key code as a register value, 0 to 15 (R182). -/
def keyByte (k : KeyCode) : Byte := BitVec.ofNat Config.vWidth k.val

/-- The decimal digits of a byte, hundreds first, one digit a byte (R193). -/
def bcdDigits (v : Byte) : List Byte :=
  [BitVec.ofNat 8 (v.toNat / 100), BitVec.ofNat 8 (v.toNat / 10 % 10), BitVec.ofNat 8 (v.toNat % 10)]

end Sys2Proof.Machine
end

