-- ==== Sys2Proof/Machine/Alu.lean ====
section
/-! DEFINITION. The register-register family (42_alu.md). Both operands are read first, then the result is
written, then the flag (R130). -/

namespace Sys2Proof.Machine

/-- LD Vx, Vy (R131). -/
def execLdReg (x y : Reg) (s : State) : Result := .next (s.setReg x (s.reg y)).next

/-- OR Vx, Vy (R132): VF is not written as a flag. -/
def execOrReg (x y : Reg) (s : State) : Result := .next (s.setReg x (s.reg x ||| s.reg y)).next

/-- AND Vx, Vy (R133). -/
def execAndReg (x y : Reg) (s : State) : Result := .next (s.setReg x (s.reg x &&& s.reg y)).next

/-- XOR Vx, Vy (R134). -/
def execXorReg (x y : Reg) (s : State) : Result := .next (s.setReg x (s.reg x ^^^ s.reg y)).next

/-- ADD Vx, Vy (R135): modulo 256, VF the carry. -/
def execAddReg (x y : Reg) (s : State) : Result :=
  .next (s.setRegFlag x (s.reg x + s.reg y) (carryOut (s.reg x) (s.reg y))).next

/-- SUB Vx, Vy (R136): `Vx - Vy` modulo 256, VF = 1 for no borrow. -/
def execSubReg (x y : Reg) (s : State) : Result :=
  .next (s.setRegFlag x (s.reg x - s.reg y) (noBorrow (s.reg x) (s.reg y))).next

/-- SHR Vx (R137): `Vx` shifted in place by one; `y` is ignored. -/
def execShr (x _y : Reg) (s : State) : Result :=
  .next (s.setRegFlag x (s.reg x >>> 1) (lowBit (s.reg x))).next

/-- SUBN Vx, Vy (R138): `Vy - Vx` modulo 256 into `Vx`, VF = 1 for no borrow. -/
def execSubnReg (x y : Reg) (s : State) : Result :=
  .next (s.setRegFlag x (s.reg y - s.reg x) (noBorrow (s.reg y) (s.reg x))).next

/-- SHL Vx (R139): `Vx` shifted in place by one; `y` is ignored. -/
def execShl (x _y : Reg) (s : State) : Result :=
  .next (s.setRegFlag x (s.reg x <<< 1) (highBit (s.reg x))).next

end Sys2Proof.Machine
end

