-- ==== Sys2Proof/Machine/Control.lean ====
section
/-! DEFINITION. Control transfer (40_control.md): SYS, RET, JP, CALL, the four register skips, JP V0. No target is
checked here; the check is the next fetch's (R109). -/

namespace Sys2Proof.Machine

/-- SYS nnn (R100): always the decode fault that records the word. -/
def execSys (nnn : Addr) (s : State) : Result := takeFault (.decodeFault (encode (.sys nnn))) s

/-- RET (R101): `PC` becomes the popped address itself. -/
def execRet (s : State) : Result :=
  match pop s with
  | .ok (a, t) => .next (t.setPc a)
  | .error c => takeFault c s

/-- JP nnn (R102). -/
def execJp (nnn : Addr) (s : State) : Result := .next (s.setPc (zextAddr nnn))

/-- CALL nnn (R103): the pushed address is that of the instruction after this one. -/
def execCall (nnn : Addr) (s : State) : Result :=
  match push (nextAddress s.pc) s with
  | .ok t => .next (t.setPc (zextAddr nnn))
  | .error c => takeFault c s

/-- SE Vx, nn (R104). -/
def execSeImm (x : Reg) (nn : Byte) (s : State) : Result := .next (s.skipIf (s.reg x == nn))

/-- SNE Vx, nn (R105). -/
def execSneImm (x : Reg) (nn : Byte) (s : State) : Result := .next (s.skipIf (s.reg x != nn))

/-- SE Vx, Vy (R106). -/
def execSeReg (x y : Reg) (s : State) : Result := .next (s.skipIf (s.reg x == s.reg y))

/-- SNE Vx, Vy (R107). -/
def execSneReg (x y : Reg) (s : State) : Result := .next (s.skipIf (s.reg x != s.reg y))

/-- JP V0, nnn (R108). -/
def execJpV0 (nnn : Addr) (s : State) : Result := .next (s.setPc (offsetTarget nnn (s.reg V0)))

end Sys2Proof.Machine
end

