-- ==== Sys2Proof/Machine/Screen.lean ====
section
/-! DEFINITION. The framebuffer and the sprite-compositing unit (10_state.md R19, 45_draw.md R171). -/

namespace Sys2Proof.Machine

/-- A blank framebuffer: all 2048 pixels 0 (R170). -/
def blankScreen : Screen := Vector.replicate Config.fbHeight (Vector.replicate Config.fbWidth false)

/-- The pixel at column `px`, row `py`. -/
def pixelOf (fb : Screen) (px : Column) (py : Row) : Bool := fb[py][px]

/-- `fb[y][x]` of a state (R7). -/
def State.pixel (s : State) (px : Column) (py : Row) : Bool := pixelOf s.fb px py

/-- `fb[py][px] <- fb[py][px] ^ 1`. -/
def togglePixel (fb : Screen) (px : Column) (py : Row) : Screen :=
  fb.set py (fb[py].set px (!fb[py][px]))

/-- A coordinate wrapped onto the framebuffer's width, never clipped (R171). -/
def wrapColumn (x : Nat) : Column := Fin.ofNat Config.fbWidth x

/-- A coordinate wrapped onto the framebuffer's height, never clipped (R171). -/
def wrapRow (y : Nat) : Row := Fin.ofNat Config.fbHeight y

/-- One source bit drawn at an unwrapped coordinate: a 0 leaves its pixel alone, a 1 toggles it and is a collision
if the pixel was set. The accumulator is the framebuffer and `hit`. -/
def drawBit (bit : Bool) (x y : Nat) (acc : Screen × Bool) : Screen × Bool :=
  if bit then
    (togglePixel acc.1 (wrapColumn x) (wrapRow y), acc.2 || pixelOf acc.1 (wrapColumn x) (wrapRow y))
  else acc

/-- The last `n` columns of a sprite row at row `y`: the next bit is bit `n - 1`, at column `x` (bit 7 is the
leftmost, R171). -/
def drawColumns (row : Byte) (y : Nat) : Nat → Nat → Screen × Bool → Screen × Bool
  | 0, _, acc => acc
  | n + 1, x, acc => drawColumns row y n (x + 1) (drawBit (row.getLsbD n) x y acc)

/-- The rows of a sprite whose left edge is at column `x`, the first of them at row `y` and each one lower. -/
def drawRows (x : Nat) : Nat → List Byte → Screen × Bool → Screen × Bool
  | _, [], acc => acc
  | y, row :: rows, acc => drawRows x (y + 1) rows (drawColumns row y Config.spriteWidth x acc)

/-- `composite(x0, y0, rows)` (R171): the framebuffer after, and `hit`, cumulative over the whole call. -/
def composite (fb : Screen) (x0 y0 : Byte) (rows : List Byte) : Screen × Bool :=
  drawRows x0.toNat y0.toNat rows (fb, false)

end Sys2Proof.Machine
end

