-- ==== Sys2Proof/Machine/Display.lean ====
section
/-! DEFINITION. The display instructions (45_draw.md). -/

namespace Sys2Proof.Machine

/-- CLS (R170). -/
def execCls (s : State) : Result := .next (s.setScreen blankScreen).next

/-- DRW Vx, Vy, n (R172): the operands and the sprite bytes are read before anything is written; VF is the
collision bit, always written. -/
def execDrw (x y : Reg) (n : Fin 16) (s : State) : Result :=
  match readFromIndex n.val s with
  | .ok rows =>
    let drawn := composite s.fb (s.reg x) (s.reg y) rows
    .next ((s.setScreen drawn.1).setReg VF (flagByte drawn.2)).next
  | .error c => takeFault c s

end Sys2Proof.Machine
end

