-- ==== Sys2Proof/Machine/Immediate.lean ====
section
/-! DEFINITION. Immediate load and add (41_immediate.md). Neither writes VF as a flag. -/

namespace Sys2Proof.Machine

/-- LD Vx, nn (R120). -/
def execLdImm (x : Reg) (nn : Byte) (s : State) : Result := .next (s.setReg x nn).next

/-- ADD Vx, nn (R121): modulo 256, no flag. -/
def execAddImm (x : Reg) (nn : Byte) (s : State) : Result := .next (s.setReg x (s.reg x + nn)).next

end Sys2Proof.Machine
end

