-- ==== Sys2Proof/Machine/Index.lean ====
section
/-! DEFINITION. The index register (43_index.md). -/

namespace Sys2Proof.Machine

/-- LD I, nnn (R150). -/
def execLdI (nnn : Addr) (s : State) : Result := .next (s.setIndex (zextAddr nnn)).next

/-- ADD I, Vx (R151): modulo 65536; VF tells whether the unreduced sum passed 0xFFF, and is written last. -/
def execAddI (x : Reg) (s : State) : Result :=
  .next ((s.setIndex (s.index + zextByte (s.reg x))).setReg VF (flagByte (indexOverflow s.index (s.reg x)))).next

/-- LD F, Vx (R152): the glyph's address, from the constant and not from memory. -/
def execLdF (x : Reg) (s : State) : Result :=
  match checkIndex .glyphIndex Config.numGlyphs (s.reg x) with
  | .ok d => .next (s.setIndex (glyphAddress d)).next
  | .error c => takeFault c s

end Sys2Proof.Machine
end

