-- ==== Sys2Proof/Machine/Keys.lean ====
section
/-! DEFINITION. The key instructions (46_keys.md). The latch is read, never written. -/

namespace Sys2Proof.Machine

/-- SKP Vx (R180). -/
def execSkp (x : Reg) (s : State) : Result :=
  match checkIndex .keyIndex Config.numKeys (s.reg x) with
  | .ok k => .next (s.skipIf (s.key k))
  | .error c => takeFault c s

/-- SKNP Vx (R181). -/
def execSknp (x : Reg) (s : State) : Result :=
  match checkIndex .keyIndex Config.numKeys (s.reg x) with
  | .ok k => .next (s.skipIf (!s.key k))
  | .error c => takeFault c s

/-- LD Vx, K (R182): the lowest held key, or `hold`: `PC` stays on the instruction and nothing is written. -/
def execLdVxK (x : Reg) (s : State) : Result :=
  match s.lowestKey with
  | some k => .next (s.setReg x (keyByte k)).next
  | none => .next s

end Sys2Proof.Machine
end

