-- ==== Sys2Proof/Machine/Random.lean ====
section
/-! DEFINITION. The random number instruction (44_random.md). -/

namespace Sys2Proof.Machine

/-- `draw8()` in this state: the free value of the next draw (R160). -/
def nextDraw (s : State) : Byte := Config.draw s.draws

/-- RND Vx, nn (R161): the draw masked by `nn`; one draw is consumed, also when `nn = 0`. -/
def execRnd (x : Reg) (nn : Byte) (s : State) : Result :=
  .next ((s.setReg x (nextDraw s &&& nn)).countDraw).next

end Sys2Proof.Machine
end

