-- ==== Sys2Proof/Machine/Timers.lean ====
section
/-! DEFINITION. Timer access (47_timers_bcd_bulk.md). The tick of the same step follows in `State.finish` (R81). -/

namespace Sys2Proof.Machine

/-- LD Vx, DT (R190): the value before this step's tick. -/
def execLdVxDT (x : Reg) (s : State) : Result := .next (s.setReg x s.dt).next

/-- LD DT, Vx (R191). -/
def execLdDTVx (x : Reg) (s : State) : Result := .next (s.setDT (s.reg x)).next

/-- LD ST, Vx (R192). -/
def execLdSTVx (x : Reg) (s : State) : Result := .next (s.setST (s.reg x)).next

end Sys2Proof.Machine
end

