-- ==== Sys2Proof/Machine/Transfer.lean ====
section
/-! DEFINITION. BCD and the bulk transfers (47_timers_bcd_bulk.md). All addresses are checked before any write, and
`I` is left as it was (R42, R196). -/

namespace Sys2Proof.Machine

/-- LD B, Vx (R193): hundreds, tens and ones of `Vx` at `I`, `I + 1`, `I + 2`. -/
def execLdB (x : Reg) (s : State) : Result :=
  match writeFromIndex (bcdDigits (s.reg x)) s with
  | .ok t => .next t.next
  | .error c => takeFault c s

/-- LD [I], Vx (R194): `V[0]` .. `V[x]` at `I` .. `I + x`. -/
def execStoreRegs (x : Reg) (s : State) : Result :=
  match writeFromIndex (s.regsUpTo x) s with
  | .ok t => .next t.next
  | .error c => takeFault c s

/-- LD Vx, [I] (R195): `V[0]` .. `V[x]` from `I` .. `I + x`. -/
def execLoadRegs (x : Reg) (s : State) : Result :=
  match readFromIndex (x.val + 1) s with
  | .ok bytes => .next (s.setRegsUpTo x bytes).next
  | .error c => takeFault c s

end Sys2Proof.Machine
end

