-- ==== Sys2Proof/Machine/HostMoves.lean ====
section
/-! DEFINITION. What the host does between two steps (60_exceptions.md R225, 70_reset_and_hazards.md): `reset`,
`load_program`, the key latch and the redraw flag, and what it reads. There is no other move. Log entry 5. -/

namespace Sys2Proof.Machine

/-- `reset()` (R230): every piece of the spec's state goes to its value of R27, whatever it held. The draws go on:
the random source is no part of the state reset (R25, R27). -/
def State.hostReset (s : State) : State := { State.reset with draws := s.draws }

/-- `load_program(image)` (R233 to R235): the size check first; then the reset; then the copy to 0x200 upward. An
oversized image changes `status` alone. -/
def State.loadProgram (image : List Byte) (s : State) : State :=
  if image.length > Config.progMax then s.setStatus (.faulted (.loadError image.length))
  else s.hostReset.setMem (Memory.writeBytes s.hostReset.mem Config.progStart image)

/-- The host presses or releases key `k` (R18, R223). -/
def State.setKey (k : KeyCode) (down : Bool) (s : State) : State := { s with keys := s.keys.set k down }

/-- The display adapter clears the flag after consuming it (R20, R224). -/
def State.clearRedraw (s : State) : State := { s with redraw := false }

/-- The sound line the audio adapter samples: `ST != 0` (R222). -/
def State.soundLine (s : State) : Bool := s.st != 0#8

/-- The moves of the host that change the state, besides `step` (R225). -/
inductive HostMove where
  | reset
  | loadProgram (image : List Byte)
  | key (k : KeyCode) (down : Bool)
  | clearRedraw
  deriving DecidableEq, Repr

/-- The state after a move of the host. -/
def applyMove (m : HostMove) (s : State) : State :=
  match m with
  | .reset => s.hostReset
  | .loadProgram image => s.loadProgram image
  | .key k down => s.setKey k down
  | .clearRedraw => s.clearRedraw

/-- The numeric label of a fault record: category and, for a bounds fault, the kind (R204); and its value. -/
def causeCode (c : Cause) : Nat × Nat × Nat :=
  match c with
  | .loadError len => (1, 0, len)
  | .decodeFault w => (2, 0, w.toNat)
  | .bounds .fetch v => (3, 1, v)
  | .bounds .memRead v => (3, 2, v)
  | .bounds .memWrite v => (3, 3, v)
  | .bounds .stackOverflow v => (3, 4, v)
  | .bounds .stackUnderflow v => (3, 5, v)
  | .bounds .keyIndex v => (3, 6, v)
  | .bounds .glyphIndex v => (3, 7, v)

end Sys2Proof.Machine
end

