-- ==== Sys2Proof/Machine/Step.lean ====
section
/-! DEFINITION. The step cycle (30_encoding.md R80 to R84) and the placing of one word where the next step fetches. -/

namespace Sys2Proof.Machine

/-- `step()` (R80): a faulted machine changes nothing (R84); else fetch, decode, execute, tick. A fault of the fetch
or the decode is taken like an instruction's own (R83, R205). -/
def step (s : State) : Host.Outcome State Fault Refusal :=
  match s.status with
  | .faulted _ => .next s
  | .running =>
    match fetchInstr s with
    | .error c => takeFault c s
    | .ok i =>
      match exec i s with
      | .next t => .next t.finish
      | .fault f => .fault f
      | .refused r => .refused r

/-- The host's placing of one word: its two bytes at `PC` (high byte first), or at 0x200 with `PC` there where `PC`
names no two bytes of the memory; and the machine running, so that the very next step fetches and runs it. It
stands for the host's `load_program` (log entry 6). -/
def State.withFetchWord (s : State) (nbits w : Nat) : State :=
  let at_ : Nat := if s.pc.toNat + Config.insnBytes ≤ Config.memSize then s.pc.toNat else Config.progStart
  ((s.storeWord at_ (BitVec.ofNat 16 (w % 2 ^ nbits))).setPc (BitVec.ofNat Config.pcWidth at_)).setStatus .running

end Sys2Proof.Machine
end

