-- ==== Sys2Proof/Safety.lean ====
section
/-! DEFINITION. The terms the statements use: a running machine, what an instruction may change (its footprint) and
that it keeps the rest, the sprite bits of R171, the illegal words of R68, the invariants, and what a fault record
says of the state. -/

namespace Sys2Proof.Machine

/-- A safe state: no fault is recorded (R24, R84). -/
def State.Safe (s : State) : Prop := s.status = .running

/-! ### Frames -/

/-- What an instruction may change beside `PC`; everything else a state holds is kept. -/
structure Footprint where
  /-- The registers that may change. -/
  regs : List Reg := []
  /-- The addresses stored to. -/
  bytes : List Nat := []
  /-- `I`. -/
  index : Bool := false
  /-- `SP` and the return stack. -/
  calls : Bool := false
  /-- `DT`. -/
  delay : Bool := false
  /-- `ST`. -/
  sound : Bool := false
  /-- The framebuffer and `redraw`. -/
  screen : Bool := false
  /-- The model's count of draws. -/
  draws : Bool := false
  deriving DecidableEq, Repr

/-- From `s` to `t` nothing changed but `PC` and what the footprint names. The key latch and `status` are in no
footprint: no instruction that completes changes them (R18, R24). -/
structure Keeps (f : Footprint) (s t : State) : Prop where
  regs : ∀ r, r ∉ f.regs → t.reg r = s.reg r
  bytes : ∀ a, a ∉ f.bytes → t.readByte a = s.readByte a
  index : f.index = false → t.index = s.index
  calls : f.calls = false → t.sp = s.sp ∧ t.stack = s.stack
  delay : f.delay = false → t.dt = s.dt
  sound : f.sound = false → t.st = s.st
  screen : f.screen = false → t.fb = s.fb ∧ t.redraw = s.redraw
  draws : f.draws = false → t.draws = s.draws
  keys : t.keys = s.keys
  status : t.status = s.status

/-- The `n` addresses from `base` upward. -/
def addresses (base n : Nat) : List Nat := (List.range n).map (base + ·)

/-- The state in which a fault is recorded and everything else is as in `s` (R83, R205). -/
def State.faultedBy (s : State) (c : Cause) : State := { s with status := .faulted c }

/-! ### Sprites -/

/-- A 1 bit of the sprite lands on the pixel: some row `r` and column `c` of `rows` holds a 1 (bit 7 the leftmost
column) and wraps onto `(px, py)` (R171). -/
def SpriteCovers (rows : List Byte) (x0 y0 : Byte) (px : Column) (py : Row) : Prop :=
  ∃ r c, r < rows.length ∧ c < 8 ∧ (rows.getD r 0#8).getLsbD (7 - c) = true ∧
    (x0.toNat + c) % 64 = px.val ∧ (y0.toNat + r) % 32 = py.val

/-- The `n` sprite rows a DRW of height `n` reads: the bytes from `I` upward (R172). -/
def State.spriteRows (s : State) (n : Nat) : List Byte := Memory.readBytes s.mem s.index.toNat n

/-! ### Who writes VF and who may fault -/

/-- The seven instructions that write VF as a flag (R11). -/
def writesFlag : Instr → Bool
  | .addReg _ _ | .subReg _ _ | .shr _ _ | .subnReg _ _ | .shl _ _ | .addI _ | .drw _ _ _ => true
  | .cls | .ret | .sys _ | .jp _ | .call _ | .seImm _ _ | .sneImm _ _ | .seReg _ _ | .ldImm _ _ | .addImm _ _
  | .ldReg _ _ | .orReg _ _ | .andReg _ _ | .xorReg _ _ | .sneReg _ _ | .ldI _ | .jpV0 _ | .rnd _ _ | .skp _
  | .sknp _ | .ldVxDT _ | .ldVxK _ | .ldDTVx _ | .ldSTVx _ | .ldF _ | .ldB _ | .storeRegs _ | .loadRegs _ => false

/-- The instruction names `r` as its destination `x` (or, for the bulk load, `r` is among `V0` to `Vx`) (R10, R11). -/
def namesDestination (i : Instr) (r : Reg) : Bool :=
  match i with
  | .ldImm x _ | .addImm x _ | .rnd x _ | .ldReg x _ | .orReg x _ | .andReg x _ | .xorReg x _ | .addReg x _
  | .subReg x _ | .shr x _ | .subnReg x _ | .shl x _ | .ldVxDT x | .ldVxK x => decide (r = x)
  | .loadRegs x => decide (r ≤ x)
  | .cls | .ret | .sys _ | .jp _ | .call _ | .seImm _ _ | .sneImm _ _ | .seReg _ _ | .sneReg _ _ | .ldI _
  | .jpV0 _ | .drw _ _ _ | .skp _ | .sknp _ | .ldDTVx _ | .ldSTVx _ | .addI _ | .ldF _ | .ldB _
  | .storeRegs _ => false

/-- The instructions of R203's table, and SYS (R100): no other can fault. -/
def mayFault : Instr → Bool
  | .sys _ | .ret | .call _ | .drw _ _ _ | .skp _ | .sknp _ | .ldF _ | .ldB _ | .storeRegs _ | .loadRegs _ => true
  | .cls | .jp _ | .seImm _ _ | .sneImm _ _ | .seReg _ _ | .ldImm _ _ | .addImm _ _ | .ldReg _ _ | .orReg _ _
  | .andReg _ _ | .xorReg _ _ | .addReg _ _ | .subReg _ _ | .shr _ _ | .subnReg _ _ | .shl _ _ | .sneReg _ _
  | .ldI _ | .jpV0 _ | .rnd _ _ | .ldVxDT _ | .ldVxK _ | .ldDTVx _ | .ldSTVx _ | .addI _ => false

/-! ### Illegal words -/

/-- The words R68 lists as illegal, family by family, written from that list and not from the decoder. -/
def illegalWord (w : Word) : Bool :=
  (w.toNat / 4096 == 0x0 && w.toNat != 0x00E0 && w.toNat != 0x00EE)
  || (w.toNat / 4096 == 0x5 && w.toNat % 16 != 0)
  || (w.toNat / 4096 == 0x9 && w.toNat % 16 != 0)
  || (w.toNat / 4096 == 0x8 && [0x8, 0x9, 0xA, 0xB, 0xC, 0xD, 0xF].contains (w.toNat % 16))
  || (w.toNat / 4096 == 0xE && !([0x9E, 0xA1].contains (w.toNat % 256)))
  || (w.toNat / 4096 == 0xF &&
      !([0x07, 0x0A, 0x15, 0x18, 0x1E, 0x29, 0x33, 0x55, 0x65].contains (w.toNat % 256)))

/-! ### Invariants -/

/-- What every step keeps: the memory is in its canonical form; `PC` is at most 0x10FE, the largest value any
instruction can write into it (R13); every stack slot holds at most 0x1000, the address after the last fetchable
instruction (R103). -/
structure Inv (s : State) : Prop where
  memory : Memory.wf s.mem = true
  pc : s.pc.toNat ≤ 0x10FE
  stack : ∀ k : Fin 16, (s.stack[k]).toNat ≤ 0x1000

/-- The row of R203 (or R201, R202) that a fault record names holds of the state, which a fault leaves as it was:
the instruction at `PC` raises that kind, its condition is met, and the recorded value is the one the row gives. -/
def Explains (s : State) : Cause → Prop
  | .loadError len => Config.progMax < len
  | .decodeFault w => fetchWord s = .ok w ∧ illegalWord w = true
  | .bounds .fetch v => Config.memSize ≤ s.pc.toNat + 1 ∧ v = max Config.memSize s.pc.toNat
  | .bounds .memRead v => v = max Config.memSize s.index.toNat ∧
      ((∃ x y n, fetchInstr s = .ok (.drw x y n) ∧ 0 < n.val ∧ Config.memSize ≤ s.index.toNat + (n.val - 1)) ∨
        ∃ x, fetchInstr s = .ok (.loadRegs x) ∧ Config.memSize ≤ s.index.toNat + x.val)
  | .bounds .memWrite v => v = max Config.memSize s.index.toNat ∧
      ((∃ x, fetchInstr s = .ok (.ldB x) ∧ Config.memSize ≤ s.index.toNat + 2) ∨
        ∃ x, fetchInstr s = .ok (.storeRegs x) ∧ Config.memSize ≤ s.index.toNat + x.val)
  | .bounds .stackOverflow v => v = 16 ∧ s.sp.val = 16 ∧ ∃ nnn, fetchInstr s = .ok (.call nnn)
  | .bounds .stackUnderflow v => v = 0 ∧ s.sp.val = 0 ∧ fetchInstr s = .ok .ret
  | .bounds .keyIndex v => ∃ x, (fetchInstr s = .ok (.skp x) ∨ fetchInstr s = .ok (.sknp x)) ∧
      v = (s.reg x).toNat ∧ 15 < v
  | .bounds .glyphIndex v => ∃ x, fetchInstr s = .ok (.ldF x) ∧ v = (s.reg x).toNat ∧ 15 < v

/-- A recorded fault is one the state explains; a running machine records none. -/
def FaultExplained (s : State) : Prop :=
  match s.status with
  | .running => True
  | .faulted c => Explains s c

end Sys2Proof.Machine
end

