-- ==== Sys2Proof/Certificates/Slice0/Obligations.lean ====
section
/-! DEFINITION. The statements for the provers: what the spec's numbered rules say the machine does. Where a clause
rests on a decision of 92_eei_decisions.md its docstring names the decision. That the normal advance of `PC` is 2 and
a skip's 4 is R82's (D5) throughout, and that a fault leaves all else as it was is R83's and R205's (D17). -/

open Sys2Proof Sys2Proof.Machine

/-! ### Encoding and decoding (30_encoding.md) -/

/-- R62, R63, R66 (patterns: decision D1): every instruction that has a word is read back from that word, and from its
bytes in memory order with whatever follows them. -/
def Obligations.EncodedInstrDecodesBack : Prop :=
  ∀ i : Instr, i.wellFormed = true →
    decodeWord (encode i) = .ok i ∧ ∀ rest, decode (encodeBytes i ++ rest) = .ok (i, rest)

/-- R66, R67 (D1): a word that decodes is the word of what it decodes to, which is well-formed: no bit is dropped and
no two words share a meaning. -/
def Obligations.DecodedInstrEncodesBack : Prop :=
  ∀ (w : Word) (i : Instr), decodeWord w = .ok i → encode i = w ∧ i.wellFormed = true

/-- R66, R67 (D1): a word is an instruction of a row iff `w & mask = match`; the SYS row also needs that the word is
neither 0x00E0 nor 0x00EE. -/
def Obligations.DecodeFollowsOpcodeMap : Prop :=
  (∀ (w : Word) (i : Instr), (∀ nnn, i ≠ .sys nnn) →
    (inOpcodeRow w i = true ↔ ∃ j, decodeWord w = .ok j ∧ opcodeRow j = opcodeRow i)) ∧
  (∀ (w : Word) (nnn : Addr),
    (inOpcodeRow w (.sys nnn) = true ∧ w ≠ 0x00E0#16 ∧ w ≠ 0x00EE#16) ↔ ∃ m, decodeWord w = .ok (.sys m))

/-- R68 (D1, D2, D4): the words that stand for no executing instruction are exactly the ones R68 lists; SYS is the one
named slot among them. -/
def Obligations.IllegalWordsAreThoseListed : Prop :=
  ∀ w : Word, illegalWord w = true ↔ ∀ i, decodeWord w = .ok i → ∃ nnn, i = .sys nnn

/-- 95_test_vectors.md section 3 (D1): at least one word of each family (each value of `op`, R9) decodes to the
instruction it stands for. -/
def Obligations.SpecWordsDecode : Prop :=
  decodeWord 0x00E0#16 = .ok .cls ∧ decodeWord 0x00EE#16 = .ok .ret ∧ decodeWord 0x0123#16 = .ok (.sys 0x123#12) ∧
  decodeWord 0x1234#16 = .ok (.jp 0x234#12) ∧ decodeWord 0x2345#16 = .ok (.call 0x345#12) ∧
  decodeWord 0x3456#16 = .ok (.seImm 4 0x56#8) ∧ decodeWord 0x4567#16 = .ok (.sneImm 5 0x67#8) ∧
  decodeWord 0x5670#16 = .ok (.seReg 6 7) ∧ decodeWord 0x6789#16 = .ok (.ldImm 7 0x89#8) ∧
  decodeWord 0x789A#16 = .ok (.addImm 8 0x9A#8) ∧ decodeWord 0x8AB4#16 = .ok (.addReg 10 11) ∧
  decodeWord 0x823E#16 = .ok (.shl 2 3) ∧ decodeWord 0x9230#16 = .ok (.sneReg 2 3) ∧
  decodeWord 0xA123#16 = .ok (.ldI 0x123#12) ∧ decodeWord 0xB123#16 = .ok (.jpV0 0x123#12) ∧
  decodeWord 0xC4FF#16 = .ok (.rnd 4 0xFF#8) ∧
  decodeWord 0xD7A5#16 = .ok (.drw 7 10 5) ∧ decodeWord 0xE1A1#16 = .ok (.sknp 1) ∧
  decodeWord 0xF107#16 = .ok (.ldVxDT 1) ∧ decodeWord 0xF165#16 = .ok (.loadRegs 1)

/-! ### The step cycle and faults (30_encoding.md R80 to R84, 60_exceptions.md) -/

/-- R80, R81, R83 (D17 for the faulting case): when the two bytes at `PC` decode to `i`, the step is `exec i`,
followed by the tick of both timers unless the instruction faulted; `exec i` always answers a next state. -/
def Obligations.StepRunsDecodedInstr : Prop :=
  ∀ (s : State) (i : Instr), s.status = .running → s.pc.toNat + 1 < 4096 →
    decode [s.readByte s.pc.toNat, s.readByte (s.pc.toNat + 1)] = .ok (i, []) →
    ∃ t, exec i s = .next t ∧
      (t.status = .running → step s = .next { t with dt := tickTimer t.dt, st := tickTimer t.st }) ∧
      (∀ c, t.status = .faulted c → step s = .next t)

/-- R61 (D17 and D27 for the fault): the fetch reads `w[15:8] = mem[PC]`, `w[7:0] = mem[PC+1]`, whatever the parity of
`PC`; at `PC >= 4096` and at `PC = 4095` it faults and nothing else happens in the step. -/
def Obligations.FetchIsBigEndianAndBounded : Prop :=
  ∀ s : State,
    (s.pc.toNat + 1 < 4096 → ∃ w, fetchWord s = .ok w ∧ w.extractLsb' 8 8 = s.readByte s.pc.toNat ∧
      w.extractLsb' 0 8 = s.readByte (s.pc.toNat + 1)) ∧
    (s.status = .running → 4096 ≤ s.pc.toNat →
      step s = .next (s.faultedBy (.bounds .fetch s.pc.toNat))) ∧
    (s.status = .running → s.pc.toNat = 4095 → step s = .next (s.faultedBy (.bounds .fetch 4096)))

/-- R68, R202 (D1, D2, D4): fetching an illegal word records a decode fault with the word and changes nothing else;
`PC` stays on it. -/
def Obligations.IllegalWordFaults : Prop :=
  ∀ (s : State) (w : Word), s.status = .running → fetchWord s = .ok w → illegalWord w = true →
    step s = .next (s.faultedBy (.decodeFault w))

/-- R84 (D17): `step` on a faulted machine changes nothing and returns. -/
def Obligations.FaultedMachineDoesNothing : Prop :=
  ∀ (s : State) (c : Cause), s.status = .faulted c → step s = .next s

/-- R80, R83, R205 (D17): every step of every state answers a next state; a step that faults leaves every piece of
state as it was but `status`, which records the cause. -/
def Obligations.EveryStepAnswersAndFaultsPrecisely : Prop :=
  ∀ s : State, ∃ t, step s = .next t ∧
    ∀ c, s.status = .running → t.status = .faulted c → t = s.faultedBy c

/-- R220 (D17 for the skipped tick): at the end of every step that did not fault, after the instruction's own writes,
each timer goes down by 1 if it is above 0 and nothing else changes; the tick is skipped in a faulting step and on a
faulted machine. -/
def Obligations.TimersTickOncePerStep : Prop :=
  (∀ (s u : State) (i : Instr), s.status = .running → fetchInstr s = .ok i → exec i s = .next u →
    u.status = .running →
    ∃ t, step s = .next t ∧
      t.dt.toNat = (if u.dt.toNat > 0 then u.dt.toNat - 1 else u.dt.toNat) ∧
      t.st.toNat = (if u.st.toNat > 0 then u.st.toNat - 1 else u.st.toNat) ∧
      { t with dt := u.dt, st := u.st } = u) ∧
  (∀ (s t : State) (c : Cause), step s = .next t → t.status = .faulted c → t.dt = s.dt ∧ t.st = s.st)

/-! ### Control transfer (40_control.md) -/

/-- R100 (D2): SYS always takes the decode fault that records its word, and changes nothing else. That it does so also
for the ill-formed terms with `nnn` 0x0E0 or 0x0EE, whose words are CLS and RET, is the model's choice (log entry 7). -/
def Obligations.SysTakesDecodeFault : Prop :=
  ∀ (nnn : Addr) (s : State), exec (.sys nnn) s = .next (s.faultedBy (.decodeFault (0x0#4 ++ nnn)))

/-- R101 (D16 for the slot, D17 for the fault): RET takes the depth down by one and `PC` becomes the address in the
slot popped, which keeps its contents; with an empty stack it faults and changes nothing else. -/
def Obligations.RetPopsReturnAddress : Prop :=
  ∀ s : State,
    (s.sp.val ≠ 0 → ∃ t, exec .ret s = .next t ∧ t.sp.val + 1 = s.sp.val ∧
      s.stack[t.sp.val]? = some t.pc ∧ t.stack = s.stack ∧ Keeps { calls := true } s t) ∧
    (s.sp.val = 0 → exec .ret s = .next (s.faultedBy (.bounds .stackUnderflow 0)))

/-- R102: JP sets `PC` to exactly the 12-bit address, independent of any register; nothing else changes. -/
def Obligations.JpSetsPc : Prop :=
  ∀ (nnn : Addr) (s : State), ∃ t, exec (.jp nnn) s = .next t ∧ t.pc.toNat = nnn.toNat ∧ Keeps {} s t

/-- R103 (D15, D16, D17): CALL puts `PC + 2` in slot `SP`, takes the depth up by one and jumps; the other slots stay.
With 16 addresses stacked it faults and changes nothing else. -/
def Obligations.CallPushesNextAddress : Prop :=
  ∀ (nnn : Addr) (s : State),
    (s.sp.val < 16 → ∃ t, exec (.call nnn) s = .next t ∧ t.sp.val = s.sp.val + 1 ∧
      t.stack[s.sp.val]? = some (s.pc + 2#16) ∧
      (∀ k : Fin 16, k.val ≠ s.sp.val → t.stack[k] = s.stack[k]) ∧
      t.pc.toNat = nnn.toNat ∧ Keeps { calls := true } s t) ∧
    (s.sp.val = 16 → exec (.call nnn) s = .next (s.faultedBy (.bounds .stackOverflow 16)))

/-- R101, R103 (D16): after a CALL, a RET in any state with the stack the CALL left returns to the instruction after
the call, at the depth before it. -/
def Obligations.CallThenReturnResumes : Prop :=
  ∀ (nnn : Addr) (s t u : State), s.sp.val < 16 → exec (.call nnn) s = .next t →
    u.sp = t.sp → u.stack = t.stack →
    ∃ v, exec .ret u = .next v ∧ v.pc = s.pc + 2#16 ∧ v.sp = s.sp

/-- R104, R105: SE Vx, nn advances `PC` by 4 when `V[x]` equals the immediate and by 2 otherwise; SNE Vx, nn the other
way round. Nothing else changes. -/
def Obligations.SkipsCompareImmediate : Prop :=
  ∀ (x : Reg) (nn : Byte) (s : State),
    (∃ t, exec (.seImm x nn) s = .next t ∧
      t.pc = (if s.reg x = nn then s.pc + 4#16 else s.pc + 2#16) ∧ Keeps {} s t) ∧
    (∃ t, exec (.sneImm x nn) s = .next t ∧
      t.pc = (if s.reg x ≠ nn then s.pc + 4#16 else s.pc + 2#16) ∧ Keeps {} s t)

/-- R106, R107 (D4 for the low nibble): SE Vx, Vy skips when the registers are equal, SNE Vx, Vy when they differ;
with `x = y` SE always skips and SNE never does. Nothing else changes. A low nibble other than 0 is no instruction. -/
def Obligations.SkipsCompareRegisters : Prop :=
  ∀ (x y : Reg) (s : State),
    (∃ t, exec (.seReg x y) s = .next t ∧
      t.pc = (if s.reg x = s.reg y then s.pc + 4#16 else s.pc + 2#16) ∧ Keeps {} s t) ∧
    (∃ t, exec (.sneReg x y) s = .next t ∧
      t.pc = (if s.reg x ≠ s.reg y then s.pc + 4#16 else s.pc + 2#16) ∧ Keeps {} s t) ∧
    (∀ n : BitVec 4, n ≠ 0#4 → (∀ i, decodeWord (wordXYN 0x5#4 x y n) ≠ .ok i) ∧
      ∀ i, decodeWord (wordXYN 0x9#4 x y n) ≠ .ok i)

/-- R108 (D3): JP V0 sets `PC` to `nnn + V0`, not reduced modulo 4096; nothing else changes. -/
def Obligations.JpV0AddsOffset : Prop :=
  ∀ (nnn : Addr) (s : State), ∃ t, exec (.jpV0 nnn) s = .next t ∧
    t.pc.toNat = nnn.toNat + (s.reg 0).toNat ∧ Keeps {} s t

/-! ### Immediates (41_immediate.md) -/

/-- R120: LD Vx, nn writes the immediate into `V[x]`, VF included, and nothing else. -/
def Obligations.LdImmSetsRegister : Prop :=
  ∀ (x : Reg) (nn : Byte) (s : State), ∃ t, exec (.ldImm x nn) s = .next t ∧
    t.reg x = nn ∧ t.pc = s.pc + 2#16 ∧ Keeps { regs := [x] } s t

/-- R121: ADD Vx, nn adds modulo 256 and writes no other register, VF included; adding `(256 - nn) mod 256` after it
restores every register. -/
def Obligations.AddImmWrapsWithoutFlag : Prop :=
  ∀ (x : Reg) (nn : Byte) (s : State), ∃ t, exec (.addImm x nn) s = .next t ∧
    (t.reg x).toNat = ((s.reg x).toNat + nn.toNat) % 256 ∧ t.pc = s.pc + 2#16 ∧ Keeps { regs := [x] } s t ∧
    ∀ m : Byte, m.toNat = (256 - nn.toNat) % 256 →
      ∃ u, exec (.addImm x m) t = .next u ∧ ∀ r, u.reg r = s.reg r

/-! ### Register-register ALU (42_alu.md) -/

/-- R131: LD Vx, Vy copies; no flag. -/
def Obligations.LdRegCopies : Prop :=
  ∀ (x y : Reg) (s : State), ∃ t, exec (.ldReg x y) s = .next t ∧
    t.reg x = s.reg y ∧ t.pc = s.pc + 2#16 ∧ Keeps { regs := [x] } s t

/-- R132, R133, R134 (D7: VF is not written as a flag): OR, AND, XOR combine `V[x]` and `V[y]` bit by bit into `V[x]`
and write no other register. -/
def Obligations.LogicOpsLeaveFlag : Prop :=
  ∀ (x y : Reg) (s : State),
    (∃ t, exec (.orReg x y) s = .next t ∧
      (∀ k, (t.reg x).getLsbD k = ((s.reg x).getLsbD k || (s.reg y).getLsbD k)) ∧
      t.pc = s.pc + 2#16 ∧ Keeps { regs := [x] } s t) ∧
    (∃ t, exec (.andReg x y) s = .next t ∧
      (∀ k, (t.reg x).getLsbD k = ((s.reg x).getLsbD k && (s.reg y).getLsbD k)) ∧
      t.pc = s.pc + 2#16 ∧ Keeps { regs := [x] } s t) ∧
    (∃ t, exec (.xorReg x y) s = .next t ∧
      (∀ k, (t.reg x).getLsbD k = ((s.reg x).getLsbD k != (s.reg y).getLsbD k)) ∧
      t.pc = s.pc + 2#16 ∧ Keeps { regs := [x] } s t)

/-- R135 (D8 for the old VF as an operand): ADD Vx, Vy writes the sum modulo 256 (lost when `x = 15`) and then VF = 1
iff the unsigned sum of the old values exceeded 255, else 0. -/
def Obligations.AddRegSetsCarry : Prop :=
  ∀ (x y : Reg) (s : State), ∃ t, exec (.addReg x y) s = .next t ∧
    (x ≠ VF → (t.reg x).toNat = ((s.reg x).toNat + (s.reg y).toNat) % 256) ∧
    t.reg VF = (if (s.reg x).toNat + (s.reg y).toNat > 255 then 1#8 else 0#8) ∧
    t.pc = s.pc + 2#16 ∧ Keeps { regs := [x, VF] } s t

/-- R136 (D8 for the old VF as an operand): SUB Vx, Vy writes `Vx - Vy` modulo 256 (lost when `x = 15`) and then VF =
1 iff there was no borrow (`Vx >= Vy`, equality included), else 0. -/
def Obligations.SubRegSetsNoBorrow : Prop :=
  ∀ (x y : Reg) (s : State), ∃ t, exec (.subReg x y) s = .next t ∧
    (x ≠ VF → (t.reg x).toNat = ((s.reg x).toNat + 256 - (s.reg y).toNat) % 256) ∧
    t.reg VF = (if (s.reg x).toNat ≥ (s.reg y).toNat then 1#8 else 0#8) ∧
    t.pc = s.pc + 2#16 ∧ Keeps { regs := [x, VF] } s t

/-- R138 (D8 for the old VF as an operand): SUBN Vx, Vy writes `Vy - Vx` modulo 256 into `V[x]` (lost when `x = 15`)
and then VF = 1 iff there was no borrow (`Vy >= Vx`), else 0; `V[y]` is not changed unless it is the destination or
VF. -/
def Obligations.SubnRegSetsNoBorrow : Prop :=
  ∀ (x y : Reg) (s : State), ∃ t, exec (.subnReg x y) s = .next t ∧
    (x ≠ VF → (t.reg x).toNat = ((s.reg y).toNat + 256 - (s.reg x).toNat) % 256) ∧
    t.reg VF = (if (s.reg y).toNat ≥ (s.reg x).toNat then 1#8 else 0#8) ∧
    t.pc = s.pc + 2#16 ∧ Keeps { regs := [x, VF] } s t

/-- R137, R139 (D6: `V[x]` is shifted in place and `y` ignored; D8: the flag is written last): SHR halves `V[x]` and
VF is its old bit 0; SHL doubles it modulo 256 and VF is its old bit 7. -/
def Obligations.ShiftsExposeBit : Prop :=
  ∀ (x y : Reg) (s : State),
    (∃ t, exec (.shr x y) s = .next t ∧ (x ≠ VF → (t.reg x).toNat = (s.reg x).toNat / 2) ∧
      (t.reg VF).toNat = (s.reg x).toNat % 2 ∧ t.pc = s.pc + 2#16 ∧ Keeps { regs := [x, VF] } s t) ∧
    (∃ t, exec (.shl x y) s = .next t ∧ (x ≠ VF → (t.reg x).toNat = 2 * (s.reg x).toNat % 256) ∧
      (t.reg VF).toNat = (s.reg x).toNat / 128 ∧ t.pc = s.pc + 2#16 ∧ Keeps { regs := [x, VF] } s t)

/-! ### Index register (43_index.md) -/

/-- R150: LD I, nnn writes the zero-extended address into `I` and nothing else. -/
def Obligations.LdISetsIndex : Prop :=
  ∀ (nnn : Addr) (s : State), ∃ t, exec (.ldI nnn) s = .next t ∧
    t.index.toNat = nnn.toNat ∧ t.pc = s.pc + 2#16 ∧ Keeps { index := true } s t

/-- R151 (D9): ADD I, Vx adds the old `V[x]` to `I` modulo 65536, not masked to 12 bits, and VF = 1 iff the unreduced
sum exceeds 0xFFF, else 0; it never faults. -/
def Obligations.AddISetsOverflow : Prop :=
  ∀ (x : Reg) (s : State), ∃ t, exec (.addI x) s = .next t ∧
    t.index.toNat = (s.index.toNat + (s.reg x).toNat) % 65536 ∧
    t.reg VF = (if s.index.toNat + (s.reg x).toNat > 0x0FFF then 1#8 else 0#8) ∧
    t.pc = s.pc + 2#16 ∧ Keeps { regs := [VF], index := true } s t

/-- R152 (D12, D13; log entry 4): LD F, Vx points `I` at the glyph of the digit in `V[x]`, `FONT_BASE + 5 * V[x]`; a
value above 15 faults and changes nothing else. -/
def Obligations.LdFPointsAtGlyph : Prop :=
  ∀ (x : Reg) (s : State),
    ((s.reg x).toNat ≤ 15 → ∃ t, exec (.ldF x) s = .next t ∧
      t.index.toNat = 0x050 + 5 * (s.reg x).toNat ∧ t.pc = s.pc + 2#16 ∧ Keeps { index := true } s t) ∧
    (15 < (s.reg x).toNat → exec (.ldF x) s = .next (s.faultedBy (.bounds .glyphIndex (s.reg x).toNat)))

/-! ### Random (44_random.md) -/

/-- R161 (D22; log entry 1: the draw is a free value of the model): RND writes the draw masked by `nn`, so no bit
outside `nn` is set, and consumes one draw. -/
def Obligations.RndMasksDraw : Prop :=
  ∀ (x : Reg) (nn : Byte) (s : State), ∃ t, exec (.rnd x nn) s = .next t ∧
    t.reg x = Config.draw s.draws &&& nn ∧ (t.reg x &&& ~~~nn) = 0#8 ∧ t.draws = s.draws + 1 ∧
    t.pc = s.pc + 2#16 ∧ Keeps { regs := [x], draws := true } s t

/-! ### Display (45_draw.md) -/

/-- R170: CLS sets all 2048 pixels to 0 and `redraw` to true, and writes no register, VF included. -/
def Obligations.ClsBlanksScreen : Prop :=
  ∀ s : State, ∃ t, exec .cls s = .next t ∧ (∀ px py, t.pixel px py = false) ∧ t.redraw = true ∧
    t.pc = s.pc + 2#16 ∧ Keeps { screen := true } s t

/-- R171, R172: a draw whose sprite bytes lie in the memory, or whose height is 0 (D24; log entry 8), toggles exactly
the pixels that a 1 bit of the sprite lands on, at coordinates wrapped modulo 64 and 32 and never clipped; VF is 1 iff
some such pixel was set, for the whole draw, else 0. The coordinates are read before VF is written (D24). -/
def Obligations.DrwTogglesCoveredPixels : Prop :=
  ∀ (x y : Reg) (n : Fin 16) (s : State), n.val = 0 ∨ s.index.toNat + n.val ≤ 4096 →
    ∃ t, exec (.drw x y n) s = .next t ∧
      (∀ px py, SpriteCovers (s.spriteRows n.val) (s.reg x) (s.reg y) px py → t.pixel px py = !s.pixel px py) ∧
      (∀ px py, ¬ SpriteCovers (s.spriteRows n.val) (s.reg x) (s.reg y) px py → t.pixel px py = s.pixel px py) ∧
      ((∃ px py, SpriteCovers (s.spriteRows n.val) (s.reg x) (s.reg y) px py ∧ s.pixel px py = true) →
        t.reg VF = 1#8) ∧
      ((∀ px py, SpriteCovers (s.spriteRows n.val) (s.reg x) (s.reg y) px py → s.pixel px py = false) →
        t.reg VF = 0#8)

/-- R172 (D17, D24, D27): DRW changes the framebuffer, `redraw` (to true) and VF (to 0 or 1) alone, also with `n = 0`,
where it changes no pixel, never faults, and VF is 0; with a sprite byte at 4096 or above it faults and changes
nothing else. -/
def Obligations.DrwFrameAndFault : Prop :=
  ∀ (x y : Reg) (n : Fin 16) (s : State),
    (n.val = 0 ∨ s.index.toNat + n.val ≤ 4096 → ∃ t, exec (.drw x y n) s = .next t ∧
      (t.reg VF = 0#8 ∨ t.reg VF = 1#8) ∧ t.redraw = true ∧ t.pc = s.pc + 2#16 ∧
      (n.val = 0 → t.fb = s.fb ∧ t.reg VF = 0#8) ∧ Keeps { regs := [VF], screen := true } s t) ∧
    (n.val ≠ 0 → 4096 ≤ s.index.toNat + n.val - 1 →
      exec (.drw x y n) s = .next (s.faultedBy (.bounds .memRead (max 4096 s.index.toNat))))

/-- R172, the source's properties (D24 and log entry 8 for a height of 0): drawing the same sprite twice at the same
coordinates (in registers other than VF) gives back the framebuffer, and the second draw collides iff the first set
some pixel; on a blank screen, iff the sprite has a 1 bit. -/
def Obligations.DrwTwiceRestoresScreen : Prop :=
  ∀ (x y : Reg) (n : Fin 16) (s t : State), x ≠ VF → y ≠ VF → n.val = 0 ∨ s.index.toNat + n.val ≤ 4096 →
    exec (.drw x y n) s = .next t →
    ∃ u, exec (.drw x y n) t = .next u ∧ u.fb = s.fb ∧
      (u.reg VF = 1#8 ↔
        ∃ px py, SpriteCovers (s.spriteRows n.val) (s.reg x) (s.reg y) px py ∧ s.pixel px py = false) ∧
      ((∀ px py, s.pixel px py = false) → (u.reg VF = 1#8 ↔ ∃ row ∈ s.spriteRows n.val, row ≠ 0#8))

/-! ### Keys (46_keys.md) -/

/-- R180, R181 (D14, D17, D28): SKP skips iff the key named by `V[x]` is held, SKNP iff it is not; the latch is read,
not changed, and nothing but `PC` changes; a value above 15 faults and changes nothing else. -/
def Obligations.KeySkipsTestLatch : Prop :=
  ∀ (x : Reg) (s : State),
    (∀ k : KeyCode, (s.reg x).toNat = k.val →
      (∃ t, exec (.skp x) s = .next t ∧
        t.pc = (if s.key k = true then s.pc + 4#16 else s.pc + 2#16) ∧ Keeps {} s t) ∧
      (∃ t, exec (.sknp x) s = .next t ∧
        t.pc = (if s.key k = true then s.pc + 2#16 else s.pc + 4#16) ∧ Keeps {} s t)) ∧
    (15 < (s.reg x).toNat →
      exec (.skp x) s = .next (s.faultedBy (.bounds .keyIndex (s.reg x).toNat)) ∧
      exec (.sknp x) s = .next (s.faultedBy (.bounds .keyIndex (s.reg x).toNat)))

/-- R182 (D11, D29): LD Vx, K writes the least held key into `V[x]` and advances; with no key held it leaves the whole
state as it is, `PC` on itself. -/
def Obligations.LdVxKTakesLowestKey : Prop :=
  ∀ (x : Reg) (s : State),
    (∀ k : KeyCode, s.key k = true → (∀ j, j < k → s.key j = false) →
      ∃ t, exec (.ldVxK x) s = .next t ∧ (t.reg x).toNat = k.val ∧ t.pc = s.pc + 2#16 ∧
        Keeps { regs := [x] } s t) ∧
    ((∀ k, s.key k = false) → exec (.ldVxK x) s = .next s)

/-- R182, R220: a step that waits for a key keeps `PC`, ticks both timers and changes nothing else; the first step
with a key held ends the wait. -/
def Obligations.KeyWaitHoldsAndTicks : Prop :=
  ∀ (x : Reg) (s : State), s.status = .running → fetchInstr s = .ok (.ldVxK x) →
    ((∀ k, s.key k = false) → step s = .next { s with dt := tickTimer s.dt, st := tickTimer s.st }) ∧
    ((∃ k, s.key k = true) → ∃ t, step s = .next t ∧ t.pc = s.pc + 2#16 ∧
      ∃ k : KeyCode, s.key k = true ∧ (t.reg x).toNat = k.val)

/-! ### Timers, BCD, bulk transfer (47_timers_bcd_bulk.md) -/

/-- R190: LD Vx, DT reads the delay timer before the step's tick and does not disturb it; after the step `DT` is one
below the value read, or 0. -/
def Obligations.LdVxDTReadsTimer : Prop :=
  ∀ (x : Reg) (s : State),
    (∃ t, exec (.ldVxDT x) s = .next t ∧ t.reg x = s.dt ∧ t.pc = s.pc + 2#16 ∧ Keeps { regs := [x] } s t) ∧
    (s.status = .running → fetchInstr s = .ok (.ldVxDT x) →
      ∃ t, step s = .next t ∧ t.reg x = s.dt ∧
        (s.dt.toNat ≠ 0 → (t.reg x).toNat = t.dt.toNat + 1) ∧ (s.dt.toNat = 0 → t.reg x = 0#8 ∧ t.dt = 0#8))

/-- R191, R192 (the values after the tick: the spec's own derivation from R81 and R220): LD DT, Vx and LD ST, Vx write
`V[x]` into their timer and nothing else; after the step the timer is `V[x] - 1`, or 0. -/
def Obligations.TimerSetsThenTick : Prop :=
  ∀ (x : Reg) (s : State),
    (∃ t, exec (.ldDTVx x) s = .next t ∧ t.dt = s.reg x ∧ t.pc = s.pc + 2#16 ∧ Keeps { delay := true } s t) ∧
    (∃ t, exec (.ldSTVx x) s = .next t ∧ t.st = s.reg x ∧ t.pc = s.pc + 2#16 ∧ Keeps { sound := true } s t) ∧
    (s.status = .running → fetchInstr s = .ok (.ldDTVx x) →
      ∃ t, step s = .next t ∧ t.dt.toNat = (s.reg x).toNat - 1 ∧ t.st.toNat = s.st.toNat - 1) ∧
    (s.status = .running → fetchInstr s = .ok (.ldSTVx x) →
      ∃ t, step s = .next t ∧ t.st.toNat = (s.reg x).toNat - 1 ∧ t.dt.toNat = s.dt.toNat - 1)

/-- R193 (D17 and D27 for the fault): LD B, Vx writes the hundreds, tens and ones of `V[x]` at `I`, `I + 1`, `I + 2`
and nothing else; when `I + 2 >= 4096` it faults and changes nothing else. -/
def Obligations.LdBStoresDigits : Prop :=
  ∀ (x : Reg) (s : State), Memory.wf s.mem = true →
    (s.index.toNat + 2 < 4096 → ∃ t, exec (.ldB x) s = .next t ∧
      (t.readByte s.index.toNat).toNat = (s.reg x).toNat / 100 ∧
      (t.readByte (s.index.toNat + 1)).toNat = (s.reg x).toNat / 10 % 10 ∧
      (t.readByte (s.index.toNat + 2)).toNat = (s.reg x).toNat % 10 ∧
      t.pc = s.pc + 2#16 ∧ Keeps { bytes := addresses s.index.toNat 3 } s t) ∧
    (4096 ≤ s.index.toNat + 2 →
      exec (.ldB x) s = .next (s.faultedBy (.bounds .memWrite (max 4096 s.index.toNat))))

/-- R194 (D10 for `I`, D17 and D27 for the fault): LD [I], Vx writes `V[0]` to `V[x]` at `I` to `I + x`, inclusive,
and nothing else; `I` and the registers stay. When `I + x >= 4096` it faults and changes nothing else. -/
def Obligations.StoreRegsWritesBlock : Prop :=
  ∀ (x : Reg) (s : State), Memory.wf s.mem = true →
    (s.index.toNat + x.val < 4096 → ∃ t, exec (.storeRegs x) s = .next t ∧
      (∀ k : Reg, k ≤ x → t.readByte (s.index.toNat + k.val) = s.reg k) ∧
      t.pc = s.pc + 2#16 ∧ Keeps { bytes := addresses s.index.toNat (x.val + 1) } s t) ∧
    (4096 ≤ s.index.toNat + x.val →
      exec (.storeRegs x) s = .next (s.faultedBy (.bounds .memWrite (max 4096 s.index.toNat))))

/-- R195 (D10 for `I`, D17 and D27 for the fault): LD Vx, [I] loads `V[0]` to `V[x]` from `I` to `I + x`, inclusive,
and changes no other register, nor memory, nor `I`. When `I + x >= 4096` it faults and changes nothing else. -/
def Obligations.LoadRegsReadsBlock : Prop :=
  ∀ (x : Reg) (s : State),
    (s.index.toNat + x.val < 4096 → ∃ t, exec (.loadRegs x) s = .next t ∧
      (∀ k : Reg, k ≤ x → t.reg k = s.readByte (s.index.toNat + k.val)) ∧
      t.pc = s.pc + 2#16 ∧ Keeps { regs := (List.finRange 16).filter (· ≤ x) } s t) ∧
    (4096 ≤ s.index.toNat + x.val →
      exec (.loadRegs x) s = .next (s.faultedBy (.bounds .memRead (max 4096 s.index.toNat))))

/-- R194, R195, R196 (D10): a block stored and loaded back from the same `I` gives the registers stored, whatever the
registers held in between. -/
def Obligations.StoreThenLoadRoundTrips : Prop :=
  ∀ (x : Reg) (s t u : State), Memory.wf s.mem = true → s.index.toNat + x.val < 4096 →
    exec (.storeRegs x) s = .next t → u.mem = t.mem → u.index = t.index →
    ∃ v, exec (.loadRegs x) u = .next v ∧ (∀ k : Reg, k ≤ x → v.reg k = s.reg k) ∧ v.index = s.index

/-! ### Memory access (20_memory.md) -/

/-- R42 (D17, D27): the bounds check passes iff every address of the access is below 4096; otherwise it reports the
lowest address out of range. -/
def Obligations.BoundsCheckReportsLowest : Prop :=
  ∀ (kind : BoundsKind) (base len : Nat),
    ((∀ k, k < len → base + k < 4096) → checkRange kind base len = .ok ()) ∧
    (∀ a, (∃ k, k < len ∧ base + k = a) → 4096 ≤ a →
      (∀ k, k < len → 4096 ≤ base + k → a ≤ base + k) →
      checkRange kind base len = .error (.bounds kind a))

/-- R53, R81: a step of either storing instruction, LD [I], Vx or LD B, Vx, that stores over the two bytes of the very
next instruction is followed by the fetch of the word it stored there. -/
def Obligations.StoreIsSeenByNextFetch : Prop :=
  ∀ (x : Reg) (s : State), Memory.wf s.mem = true → s.status = .running → s.index.toNat = s.pc.toNat + 2 →
    (fetchInstr s = .ok (.storeRegs x) → 1 ≤ x.val → s.index.toNat + x.val < 4096 →
      ∃ t, step s = .next t ∧ fetchWord t = .ok (wordOfBytes (s.reg 0) (s.reg 1))) ∧
    (fetchInstr s = .ok (.ldB x) → s.index.toNat + 2 < 4096 →
      ∃ t w, step s = .next t ∧ fetchWord t = .ok w ∧
        w.toNat = 256 * ((s.reg x).toNat / 100) + (s.reg x).toNat / 10 % 10)

/-! ### Rules of the whole machine -/

/-- R12, R14, R15, R16, R17, R19, R40: which instructions write `SP`, the stack, `I`, each timer, the framebuffer and
the memory. -/
def Obligations.OnlyNamedInstructionsWrite : Prop :=
  ∀ (i : Instr) (s t : State), exec i s = .next t →
    (t.sp ≠ s.sp → i = .ret ∨ ∃ nnn, i = .call nnn) ∧
    (t.stack ≠ s.stack → ∃ nnn, i = .call nnn) ∧
    (t.index ≠ s.index → (∃ nnn, i = .ldI nnn) ∨ (∃ x, i = .addI x) ∨ ∃ x, i = .ldF x) ∧
    (t.dt ≠ s.dt → ∃ x, i = .ldDTVx x) ∧
    (t.st ≠ s.st → ∃ x, i = .ldSTVx x) ∧
    (t.fb ≠ s.fb → i = .cls ∨ ∃ x y n, i = .drw x y n) ∧
    (t.mem ≠ s.mem → (∃ x, i = .ldB x) ∨ ∃ x, i = .storeRegs x)

/-- R10, R11 (D8 for the order of the writes): VF changes only under the seven instructions that write it as a flag or
under one that names it as its destination; the seven leave exactly 0 or 1 in it when they do not fault; and a
register other than VF changes only under an instruction that names it as its destination. -/
def Obligations.RegisterAndFlagWriters : Prop :=
  ∀ (i : Instr) (s t : State), exec i s = .next t →
    (t.reg VF ≠ s.reg VF → writesFlag i = true ∨ namesDestination i VF = true) ∧
    (writesFlag i = true → s.status = .running → t.status = .running → t.reg VF = 0#8 ∨ t.reg VF = 1#8) ∧
    (∀ r, r ≠ VF → t.reg r ≠ s.reg r → namesDestination i r = true)

/-- R18, R20: no step writes the key latch or clears `redraw`; a step that runs CLS or DRW without a fault sets it. -/
def Obligations.StepLeavesHostSurfaces : Prop :=
  ∀ s t : State, step s = .next t →
    t.keys = s.keys ∧ (s.redraw = true → t.redraw = true) ∧
    (∀ i, s.status = .running → fetchInstr s = .ok i → (i = .cls ∨ ∃ x y n, i = .drw x y n) →
      t.status = .running → t.redraw = true)

/-- R100, R203 (D2, D13, D14): only SYS, RET, CALL, DRW, SKP, SKNP, LD F, LD B and the bulk transfers can fault; every
other instruction completes in every state. -/
def Obligations.OnlyNamedInstructionsFault : Prop :=
  ∀ (i : Instr) (s : State), mayFault i = false → ∃ t, exec i s = .next t ∧ t.status = s.status

/-- R20, R173: the core's behaviour never depends on `redraw`: a step from a state with another value of it does the
same to everything else. -/
def Obligations.RedrawIsNeverRead : Prop :=
  ∀ (s t : State) (b : Bool), step s = .next t →
    ∃ b', step { s with redraw := b } = .next { t with redraw := b' }

/-- R17: no instruction reads `ST`: a step from a state with another value of it does the same to everything else. -/
def Obligations.SoundTimerIsNeverRead : Prop :=
  ∀ (s t : State) (v : Byte), step s = .next t →
    ∃ v', step { s with st := v } = .next { t with st := v' }

/-- R15 (D16): the contents of the stack slots at and above the depth cannot be observed: two states that agree on all
but those slots step to states that agree on all but those slots. -/
def Obligations.DeadStackSlotsUnobservable : Prop :=
  ∀ (s t : State) (slots : Vector Word 16), (∀ k : Fin 16, k.val < s.sp.val → slots[k] = s.stack[k]) →
    step s = .next t →
    ∃ slots' : Vector Word 16, (∀ k : Fin 16, k.val < t.sp.val → slots'[k] = t.stack[k]) ∧
      step { s with stack := slots } = .next { t with stack := slots' }

/-! ### Invariants -/

/-- R13, R21, R103 (D3, D5, D16, and log entry 3 for the canonical form): every step, from any state with the
invariant, keeps it: the memory canonical and inside the 4096 bytes, `PC` at most 0x10FE, every stack slot at most
0x1000. -/
def Obligations.InvariantKeptByStep : Prop :=
  ∀ s t : State, Inv s → step s = .next t → Inv t

/-- R27: the invariant holds of the machine after reset. -/
def Obligations.InvariantHoldsAtReset : Prop := Inv State.reset

/-- R225, R233: every move of the host keeps the invariant. -/
def Obligations.InvariantKeptByHostMoves : Prop :=
  ∀ (m : HostMove) (s : State), Inv s → Inv (applyMove m s)

/-- R203, R205, R206 (D13, D14, D17, D27): from any state whose fault record is explained by the rest of the state, a
step leads to one: the record names the row of R203 that holds of the unchanged state, and stays. -/
def Obligations.FaultRecordStaysExplained : Prop :=
  ∀ s t : State, FaultExplained s → step s = .next t → FaultExplained t

/-! ### Reset and program load (70_reset_and_hazards.md) -/

/-- R230 (D19 for the values not itemised, D12 and log entry 4 for the font): `reset()` puts every piece of state into
its reset value whatever it held before, a fault included; it erases the program, so the first step after it takes the
decode fault of the word 0. That the reading of an address of 4096 or above, which the machine never makes, answers 0
as well is the model's form of memory (log entry 3). -/
def Obligations.ResetClearsEverything : Prop :=
  ∀ s : State,
    (∀ r, s.hostReset.reg r = 0#8) ∧ s.hostReset.index = 0#16 ∧ s.hostReset.pc = 0x200#16 ∧
    s.hostReset.sp.val = 0 ∧ (∀ k : Fin 16, s.hostReset.stack[k] = 0#16) ∧
    s.hostReset.dt = 0#8 ∧ s.hostReset.st = 0#8 ∧ (∀ k, s.hostReset.key k = false) ∧
    (∀ px py, s.hostReset.pixel px py = false) ∧ s.hostReset.redraw = true ∧
    (∀ k, k < 80 → fontBytes[k]? = some (s.hostReset.readByte (fontBase + k))) ∧
    (∀ a, a < fontBase ∨ fontBase + 80 ≤ a → s.hostReset.readByte a = 0#8) ∧
    s.hostReset.status = .running ∧
    step s.hostReset = .next (s.hostReset.faultedBy (.decodeFault 0x0000#16))

/-- R233, R234: an image of at most 3584 bytes is copied byte for byte to 0x200 upward, the program region beyond it is
0, the reserved region and everything else are as after reset, and the machine runs. Among "everything else" is the
model's own count of draws, which reset and load both keep (log entry 1); that the reading of an address of 4096 or
above answers 0 is the model's form of memory (log entry 3). -/
def Obligations.LoadProgramCopiesImage : Prop :=
  ∀ (image : List Byte) (s : State), image.length ≤ 3584 →
    (∀ k, k < image.length → image[k]? = some ((s.loadProgram image).readByte (0x200 + k))) ∧
    (∀ a, 0x200 + image.length ≤ a → (s.loadProgram image).readByte a = 0#8) ∧
    (∀ a, a < 0x200 → (s.loadProgram image).readByte a = s.hostReset.readByte a) ∧
    { s.loadProgram image with mem := s.hostReset.mem } = s.hostReset ∧
    (s.loadProgram image).status = .running

/-- R201, R235 (D20: the size is checked first): an image of more than 3584 bytes changes `status` alone, to the load
error that records its length, and steps do nothing after it. -/
def Obligations.OversizedImageOnlyFaults : Prop :=
  ∀ (image : List Byte) (s : State), 3584 < image.length →
    s.loadProgram image = s.faultedBy (.loadError image.length) ∧
    step (s.loadProgram image) = .next (s.loadProgram image)
end

