-- ==== Sys2Proof/Laws/Config.lean ====
section
/-! SUPPORT. The parameters of Sys2Proof/Config.lean as numbers, for simp; and the bounds, as numbers, that the types
written with them give, for omega. -/

namespace Sys2Proof

@[simp] theorem Config.numV_eq : Config.numV = 16 := rfl
@[simp] theorem Config.vWidth_eq : Config.vWidth = 8 := rfl
@[simp] theorem Config.iWidth_eq : Config.iWidth = 16 := rfl
@[simp] theorem Config.pcWidth_eq : Config.pcWidth = 16 := rfl
@[simp] theorem Config.stackDepth_eq : Config.stackDepth = 16 := rfl
@[simp] theorem Config.slotWidth_eq : Config.slotWidth = 16 := rfl
@[simp] theorem Config.spMax_eq : Config.spMax = 16 := rfl
@[simp] theorem Config.numKeys_eq : Config.numKeys = 16 := rfl
@[simp] theorem Config.fbWidth_eq : Config.fbWidth = 64 := rfl
@[simp] theorem Config.fbHeight_eq : Config.fbHeight = 32 := rfl
@[simp] theorem Config.insnBytes_eq : Config.insnBytes = 2 := rfl
@[simp] theorem Config.numGlyphs_eq : Config.numGlyphs = 16 := rfl

/-- A register number is below 16 (R10). -/
theorem Reg.lt (r : Reg) : r.val < 16 := r.isLt

/-- A key code is below 16 (R18). -/
theorem KeyCode.lt (k : KeyCode) : k.val < 16 := k.isLt

namespace Machine

/-- `SP` is a depth of at most 16 (R14). -/
theorem State.sp_le (s : State) : s.sp.val ≤ 16 := Nat.le_of_lt_succ s.sp.isLt

/-- `PC` is below 65536 (R13). -/
theorem State.pc_lt (s : State) : s.pc.toNat < 65536 := s.pc.isLt

/-- `I` is below 65536 (R12). -/
theorem State.index_lt (s : State) : s.index.toNat < 65536 := s.index.isLt

/-- The next address is `PC + 2` in 16 bits (R82). -/
theorem toNat_nextAddress (pc : Word) : (nextAddress pc).toNat = (pc.toNat + 2) % 65536 := by
  simp [nextAddress]

/-- A widened address is the same number (R64). -/
theorem toNat_zextAddr (nnn : Addr) : (zextAddr nnn).toNat = nnn.toNat := by
  have := nnn.isLt
  simp only [zextAddr, BitVec.toNat_setWidth, Config.pcWidth_eq]
  omega

/-- A widened byte is the same number (R64). -/
theorem toNat_zextByte (v : Byte) : (zextByte v).toNat = v.toNat := by
  have := v.isLt
  simp only [zextByte, BitVec.toNat_setWidth, Config.pcWidth_eq]
  omega

/-- The target of JP V0 is the exact sum: it fits 16 bits (R108). -/
theorem toNat_offsetTarget (nnn : Addr) (v0 : Byte) : (offsetTarget nnn v0).toNat = nnn.toNat + v0.toNat := by
  have h1 := nnn.isLt
  have h2 := v0.isLt
  rw [offsetTarget, BitVec.toNat_add, toNat_zextAddr, toNat_zextByte]
  omega

/-- The glyph of digit `d` is at `0x050 + 5 * d` (R152). -/
theorem toNat_glyphAddress (d : Fin Config.numGlyphs) : (glyphAddress d).toNat = 0x050 + 5 * d.val := by
  revert d
  decide

end Machine

end Sys2Proof
end

