-- ==== Sys2Proof/Laws/Encoding.lean ====
section
/-! SUPPORT. The bits and the fields of the words that the three encoding formats build (30_encoding.md R62, R63). -/

namespace Sys2Proof

/-! ### Bits -/

theorem getLsbD_wordNNN (op : BitVec 4) (nnn : Addr) (k : Nat) :
    (wordNNN op nnn).getLsbD k = if k < 12 then nnn.getLsbD k else op.getLsbD (k - 12) :=
  (BitVec.getLsbD_append (x := op) (y := nnn)).trans (by split <;> simp_all)

theorem getLsbD_regByte (x : Reg) (nn : Byte) (k : Nat) :
    BitVec.getLsbD (regBits x ++ nn : Addr) k =
      if k < 8 then nn.getLsbD k else (regBits x).getLsbD (k - 8) :=
  (BitVec.getLsbD_append (x := regBits x) (y := nn)).trans (by split <;> simp_all)

theorem getLsbD_regNibble (y : Reg) (n : BitVec 4) (k : Nat) :
    BitVec.getLsbD (regBits y ++ n : Byte) k =
      if k < 4 then n.getLsbD k else (regBits y).getLsbD (k - 4) :=
  (BitVec.getLsbD_append (x := regBits y) (y := n)).trans (by split <;> simp_all)

/-- Formats XNN and X are format NNN with the register on top of the low byte. -/
theorem wordXNN_eq (op : BitVec 4) (x : Reg) (nn : Byte) :
    wordXNN op x nn = wordNNN op (regBits x ++ nn : Addr) := rfl

/-- Formats XY and XYN are format XNN with the second register on top of the low nibble. -/
theorem wordXYN_eq (op : BitVec 4) (x y : Reg) (n : BitVec 4) :
    wordXYN op x y n = wordXNN op x (regBits y ++ n : Byte) := rfl

/-! ### Fields -/

@[simp] theorem fieldOp_wordNNN (op : BitVec 4) (nnn : Addr) : fieldOp (wordNNN op nnn) = op := by
  refine BitVec.eq_of_getLsbD_eq fun k hk => ?_
  simp [fieldOp, getLsbD_wordNNN, hk]

@[simp] theorem fieldNNN_wordNNN (op : BitVec 4) (nnn : Addr) : fieldNNN (wordNNN op nnn) = nnn := by
  refine BitVec.eq_of_getLsbD_eq fun k hk => ?_
  simp [fieldNNN, getLsbD_wordNNN, hk]

@[simp] theorem fieldOp_wordXNN (op : BitVec 4) (x : Reg) (nn : Byte) : fieldOp (wordXNN op x nn) = op :=
  fieldOp_wordNNN op _

@[simp] theorem fieldNN_wordXNN (op : BitVec 4) (x : Reg) (nn : Byte) : fieldNN (wordXNN op x nn) = nn := by
  refine BitVec.eq_of_getLsbD_eq fun k hk => ?_
  simp only [fieldNN, BitVec.getLsbD_extractLsb', wordXNN_eq, getLsbD_wordNNN, getLsbD_regByte]
  simp [hk, show k < 12 by omega]

@[simp] theorem fieldX_wordXNN (op : BitVec 4) (x : Reg) (nn : Byte) : fieldX (wordXNN op x nn) = x := by
  have : (wordXNN op x nn).extractLsb' 8 4 = regBits x := by
    refine BitVec.eq_of_getLsbD_eq fun k hk => ?_
    simp only [BitVec.getLsbD_extractLsb', wordXNN_eq, getLsbD_wordNNN, getLsbD_regByte]
    simp [hk, show 8 + k < 12 by omega]
  rw [fieldX, this, regBits]

@[simp] theorem fieldOp_wordXYN (op : BitVec 4) (x y : Reg) (n : BitVec 4) : fieldOp (wordXYN op x y n) = op :=
  fieldOp_wordNNN op _

@[simp] theorem fieldX_wordXYN (op : BitVec 4) (x y : Reg) (n : BitVec 4) : fieldX (wordXYN op x y n) = x :=
  fieldX_wordXNN op x _

@[simp] theorem fieldY_wordXYN (op : BitVec 4) (x y : Reg) (n : BitVec 4) : fieldY (wordXYN op x y n) = y := by
  have : (wordXYN op x y n).extractLsb' 4 4 = regBits y := by
    refine BitVec.eq_of_getLsbD_eq fun k hk => ?_
    simp only [BitVec.getLsbD_extractLsb', wordXYN_eq, wordXNN_eq, getLsbD_wordNNN, getLsbD_regByte,
      getLsbD_regNibble]
    simp [hk, show 4 + k < 12 by omega, show 4 + k < 8 by omega]
  rw [fieldY, this, regBits]

@[simp] theorem fieldN_wordXYN (op : BitVec 4) (x y : Reg) (n : BitVec 4) : fieldN (wordXYN op x y n) = n := by
  refine BitVec.eq_of_getLsbD_eq fun k hk => ?_
  simp only [fieldN, BitVec.getLsbD_extractLsb', wordXYN_eq, wordXNN_eq, getLsbD_wordNNN, getLsbD_regByte,
    getLsbD_regNibble]
  simp [hk, show k < 12 by omega, show k < 8 by omega]

/-! ### A word is its fields -/

theorem regBits_fieldX (w : Word) : regBits (fieldX w) = w.extractLsb' 8 4 := rfl

theorem regBits_fieldY (w : Word) : regBits (fieldY w) = w.extractLsb' 4 4 := rfl

theorem wordNNN_fields (w : Word) : wordNNN (fieldOp w) (fieldNNN w) = w := by
  refine BitVec.eq_of_getLsbD_eq fun k hk => ?_
  rw [getLsbD_wordNNN]
  split
  · simp only [fieldNNN, BitVec.getLsbD_extractLsb']; simp [*]
  · simp only [fieldOp, BitVec.getLsbD_extractLsb']; simp [show k - 12 < 4 by omega, show 12 + (k - 12) = k by omega]

theorem wordXNN_fields (w : Word) : wordXNN (fieldOp w) (fieldX w) (fieldNN w) = w := by
  refine BitVec.eq_of_getLsbD_eq fun k hk => ?_
  rw [wordXNN_eq, getLsbD_wordNNN, getLsbD_regByte]
  split
  · split
    · simp only [fieldNN, BitVec.getLsbD_extractLsb']; simp [*]
    · simp only [regBits_fieldX, BitVec.getLsbD_extractLsb']; simp [show k - 8 < 4 by omega, show 8 + (k - 8) = k by omega]
  · simp only [fieldOp, BitVec.getLsbD_extractLsb']; simp [show k - 12 < 4 by omega, show 12 + (k - 12) = k by omega]

theorem wordXYN_fields (w : Word) : wordXYN (fieldOp w) (fieldX w) (fieldY w) (fieldN w) = w := by
  refine BitVec.eq_of_getLsbD_eq fun k hk => ?_
  rw [wordXYN_eq, wordXNN_eq, getLsbD_wordNNN, getLsbD_regByte, getLsbD_regNibble]
  split
  · split
    · split
      · simp only [fieldN, BitVec.getLsbD_extractLsb']; simp [*]
      · simp only [regBits_fieldY, BitVec.getLsbD_extractLsb']; simp [show k - 4 < 4 by omega, show 4 + (k - 4) = k by omega]
    · simp only [regBits_fieldX, BitVec.getLsbD_extractLsb']; simp [show k - 8 < 4 by omega, show 8 + (k - 8) = k by omega]
  · simp only [fieldOp, BitVec.getLsbD_extractLsb']; simp [show k - 12 < 4 by omega, show 12 + (k - 12) = k by omega]

theorem getLsbD_wordOfBytes (hi lo : Byte) (k : Nat) :
    (wordOfBytes hi lo).getLsbD k = if k < 8 then lo.getLsbD k else hi.getLsbD (k - 8) :=
  (BitVec.getLsbD_append (x := hi) (y := lo)).trans (by split <;> simp_all)

/-- A word as a number: the high byte counts 256 (R43). -/
theorem toNat_wordOfBytes (hi lo : Byte) : (wordOfBytes hi lo).toNat = 256 * hi.toNat + lo.toNat := by
  have h := lo.isLt
  rw [wordOfBytes, BitVec.toNat_append, ← Nat.shiftLeft_add_eq_or_of_lt h, Nat.shiftLeft_eq]
  omega

/-- A word is its high byte and its low byte, in that order (R43). -/
@[simp] theorem wordOfBytes_bytes (w : Word) : wordOfBytes (w.extractLsb' 8 8) (w.extractLsb' 0 8) = w := by
  refine BitVec.eq_of_getLsbD_eq fun k hk => ?_
  rw [getLsbD_wordOfBytes]
  simp only [BitVec.getLsbD_extractLsb']
  split
  · simp [*]
  · simp [show k - 8 < 8 by omega, show 8 + (k - 8) = k by omega]

/-! ### The opcode map's masks keep the fixed nibbles and clear the operands (R66) -/

theorem wordNNN_and (op : BitVec 4) (nnn : Addr) : wordNNN op nnn &&& 0xF000#16 = wordNNN op 0#12 := by
  refine BitVec.eq_of_getLsbD_eq fun k hk => ?_
  simp only [BitVec.getLsbD_and, getLsbD_wordNNN]
  interval_cases k <;> simp

theorem wordXNN_and_family (op : BitVec 4) (x : Reg) (nn : Byte) :
    wordXNN op x nn &&& 0xF000#16 = wordNNN op 0#12 := wordNNN_and op _

theorem wordXYN_and_family (op : BitVec 4) (x y : Reg) (n : BitVec 4) :
    wordXYN op x y n &&& 0xF000#16 = wordNNN op 0#12 := wordNNN_and op _

theorem wordXNN_and (op : BitVec 4) (x : Reg) (nn : Byte) :
    wordXNN op x nn &&& 0xF0FF#16 = wordXNN op 0 nn := by
  refine BitVec.eq_of_getLsbD_eq fun k hk => ?_
  simp only [BitVec.getLsbD_and, wordXNN_eq, getLsbD_wordNNN, getLsbD_regByte]
  interval_cases k <;> simp [regBits]

theorem wordXYN_and (op : BitVec 4) (x y : Reg) (n : BitVec 4) :
    wordXYN op x y n &&& 0xF00F#16 = wordXYN op 0 0 n := by
  refine BitVec.eq_of_getLsbD_eq fun k hk => ?_
  simp only [BitVec.getLsbD_and, wordXYN_eq, wordXNN_eq, getLsbD_wordNNN, getLsbD_regByte, getLsbD_regNibble]
  interval_cases k <;> simp [regBits]

end Sys2Proof
end

