-- ==== Sys2Proof/Laws/Memory.lean ====
section
/-! SUPPORT. What the memory operations do: a read after a write, the canonical form kept by every write, ranges
of bytes read and written, and the bounds check. -/

namespace Sys2Proof.Machine

/-! ### The canonical form -/

/-- A canonical form from a higher address is one from any lower address. -/
theorem Memory.wfFrom_mono {lo lo' : Nat} {m : Memory} (h : lo ≤ lo') (hm : Memory.wfFrom lo' m = true) :
    Memory.wfFrom lo m = true := by
  cases m with
  | nil => rfl
  | cons c m =>
    obtain ⟨a, v⟩ := c
    simp only [Memory.wfFrom, Bool.and_eq_true, decide_eq_true_eq] at hm ⊢
    exact ⟨⟨⟨h.trans hm.1.1.1, hm.1.1.2⟩, hm.1.2⟩, hm.2⟩

/-- Below its first address a canonical memory reads as the reset contents. -/
theorem Memory.read_of_lt {lo a : Nat} {m : Memory} (hm : Memory.wfFrom lo m = true) (h : a < lo) :
    Memory.read m a = initialByte a := by
  cases m with
  | nil => rfl
  | cons c m =>
    obtain ⟨b, v⟩ := c
    simp only [Memory.wfFrom, Bool.and_eq_true, decide_eq_true_eq] at hm
    simp [Memory.read, show a < b by omega]

/-- Writing inside the address space keeps the canonical form. -/
theorem Memory.wfFrom_write {lo a : Nat} {m : Memory} (v : Byte) (hm : Memory.wfFrom lo m = true)
    (hlo : lo ≤ a) (ha : a < Config.memSize) : Memory.wfFrom lo (Memory.write m a v) = true := by
  induction m generalizing lo with
  | nil =>
    by_cases hv : v = initialByte a
    · simp [Memory.write, hv, Memory.wfFrom]
    · simp [Memory.write, hv, Memory.wfFrom, hlo, ha]
  | cons c m ih =>
    obtain ⟨b, u⟩ := c
    simp only [Memory.wfFrom, Bool.and_eq_true, decide_eq_true_eq] at hm
    obtain ⟨⟨⟨h1, h2⟩, h3⟩, h4⟩ := hm
    by_cases hab : a < b
    · by_cases hv : v = initialByte a
      · simp [Memory.write, hab, hv, Memory.wfFrom, h1, h2, h3, h4]
      · simp [Memory.write, hab, hv, Memory.wfFrom, h2, h3, h4, hlo, ha, Nat.succ_le_of_lt hab]
    · by_cases he : a = b
      · subst he
        by_cases hv : v = initialByte a
        · simpa [Memory.write, hv] using Memory.wfFrom_mono (by omega : lo ≤ a + 1) h4
        · simp [Memory.write, hv, Memory.wfFrom, h1, h2, h4]
      · simp [Memory.write, hab, he, Memory.wfFrom, h1, h2, h3, ih h4 (by omega)]

/-- A byte reads back what was written to it, and every other byte is left alone (R21, R48). -/
theorem Memory.read_write {lo a : Nat} {m : Memory} (v : Byte) (hm : Memory.wfFrom lo m = true) (b : Nat) :
    Memory.read (Memory.write m a v) b = if b = a then v else Memory.read m b := by
  induction m generalizing lo with
  | nil =>
    by_cases hv : v = initialByte a <;> by_cases hb : b = a <;>
      simp_all [Memory.write, Memory.read]
  | cons c m ih =>
    obtain ⟨k, u⟩ := c
    simp only [Memory.wfFrom, Bool.and_eq_true, decide_eq_true_eq] at hm
    obtain ⟨-, h4⟩ := hm
    rcases Nat.lt_trichotomy a k with hak | rfl | hak
    · by_cases hv : v = initialByte a
      · by_cases hb : b = a
        · subst hb; simp [Memory.write, Memory.read, hak, hv]
        · simp [Memory.write, hak, hv, hb]
      · rcases Nat.lt_trichotomy b a with hba | rfl | hba
        · simp [Memory.write, Memory.read, hak, hv, hba, hba.ne, hba.trans hak]
        · simp [Memory.write, Memory.read, hak, hv]
        · simp [Memory.write, Memory.read, hak, hv, hba.ne', Nat.lt_asymm hba]
    · by_cases hv : v = initialByte a
      · rcases Nat.lt_trichotomy b a with hba | rfl | hba
        · simp [Memory.write, Memory.read, hv, hba, hba.ne, Memory.read_of_lt h4 (Nat.lt_succ_of_lt hba)]
        · simp [Memory.write, hv, Memory.read_of_lt h4 (Nat.lt_succ_self b)]
        · simp [Memory.write, Memory.read, hv, hba.ne', Nat.lt_asymm hba]
      · by_cases hb : b = a
        · subst hb; simp [Memory.write, Memory.read, hv]
        · simp [Memory.write, Memory.read, hv, hb]
    · have h1 : ¬ a < k := by omega
      have h2 : a ≠ k := by omega
      by_cases hb : b = a
      · subst hb; simp [Memory.write, Memory.read, h1, h2, ih h4]
      · simp [Memory.write, Memory.read, h1, h2, ih h4, hb]

/-! ### Ranges of bytes -/

@[simp] theorem Memory.length_readBytes (m : Memory) (base n : Nat) :
    (Memory.readBytes m base n).length = n := by
  induction n generalizing base with
  | zero => rfl
  | succ n ih => simp [Memory.readBytes, ih]

/-- Byte `k` of a range read from `base` is the byte at `base + k`. -/
theorem Memory.getElem?_readBytes (m : Memory) {base n k : Nat} (h : k < n) :
    (Memory.readBytes m base n)[k]? = some (Memory.read m (base + k)) := by
  induction n generalizing base k with
  | zero => omega
  | succ n ih =>
    cases k with
    | zero => simp [Memory.readBytes]
    | succ k => simp [Memory.readBytes, ih (Nat.lt_of_succ_lt_succ h), Nat.add_assoc, Nat.add_comm 1 k]

/-- Writing a range inside the address space keeps the canonical form. -/
theorem Memory.wf_writeBytes {m : Memory} {base : Nat} {vs : List Byte} (hm : Memory.wf m = true)
    (h : vs = [] ∨ base + vs.length ≤ Config.memSize) : Memory.wf (Memory.writeBytes m base vs) = true := by
  induction vs generalizing m base with
  | nil => exact hm
  | cons v vs ih =>
    simp only [List.length_cons, reduceCtorEq, false_or] at h
    exact ih (Memory.wfFrom_write v hm (Nat.zero_le _) (by omega)) (.inr (by omega))

/-- After a range is written inside the address space, its bytes read as written and every other byte as before. -/
theorem Memory.read_writeBytes {m : Memory} {base : Nat} {vs : List Byte} (hm : Memory.wf m = true)
    (h : vs = [] ∨ base + vs.length ≤ Config.memSize) (b : Nat) :
    Memory.read (Memory.writeBytes m base vs) b =
      if base ≤ b then vs.getD (b - base) (Memory.read m b) else Memory.read m b := by
  induction vs generalizing m base with
  | nil => simp [Memory.writeBytes]
  | cons v vs ih =>
    simp only [List.length_cons, reduceCtorEq, false_or] at h
    rw [Memory.writeBytes, ih (Memory.wfFrom_write v hm (Nat.zero_le _) (by omega)) (.inr (by omega)),
      Memory.read_write v hm]
    rcases Nat.lt_trichotomy b base with hb | rfl | hb
    · simp [show ¬ base + 1 ≤ b by omega, show ¬ base ≤ b by omega, hb.ne]
    · simp
    · obtain ⟨d, rfl⟩ : ∃ d, b = base + 1 + d := ⟨b - (base + 1), by omega⟩
      simp [show base ≤ base + 1 + d by omega, show base + 1 + d - base = d + 1 by omega,
        show base + 1 + d ≠ base by omega]

/-! ### The bounds check (R42) -/

theorem checkRange_ok {kind : BoundsKind} {base len : Nat} (h : len = 0 ∨ base + len ≤ Config.memSize) :
    checkRange kind base len = .ok () := if_pos h

theorem checkRange_error {kind : BoundsKind} {base len : Nat} (h : len ≠ 0) (hb : Config.memSize < base + len) :
    checkRange kind base len = .error (.bounds kind (max Config.memSize base)) :=
  if_neg (by omega)

/-- Reading from `I` upward: the bytes when all addresses lie in the memory, else the fault (R42). -/
theorem readFromIndex_ok {n : Nat} {s : State} (h : n = 0 ∨ s.index.toNat + n ≤ Config.memSize) :
    readFromIndex n s = .ok (Memory.readBytes s.mem s.index.toNat n) := by
  rw [readFromIndex, checkRange_ok h]

theorem readFromIndex_error {n : Nat} {s : State} (h : n ≠ 0) (hb : Config.memSize < s.index.toNat + n) :
    readFromIndex n s = .error (.bounds .memRead (max Config.memSize s.index.toNat)) := by
  rw [readFromIndex, checkRange_error h hb]

/-- Writing from `I` upward: the memory with the bytes when all addresses lie in it, else the fault (R42). -/
theorem writeFromIndex_ok {bytes : List Byte} {s : State}
    (h : bytes.length = 0 ∨ s.index.toNat + bytes.length ≤ Config.memSize) :
    writeFromIndex bytes s = .ok (s.setMem (Memory.writeBytes s.mem s.index.toNat bytes)) := by
  rw [writeFromIndex, checkRange_ok h]

theorem writeFromIndex_error {bytes : List Byte} {s : State} (h : bytes.length ≠ 0)
    (hb : Config.memSize < s.index.toNat + bytes.length) :
    writeFromIndex bytes s = .error (.bounds .memWrite (max Config.memSize s.index.toNat)) := by
  rw [writeFromIndex, checkRange_error h hb]

/-- The memory after reset is in its canonical form. -/
theorem wf_reset : Memory.wf State.reset.mem = true := rfl

end Sys2Proof.Machine
end

