-- ==== Sys2Proof/Laws/PerInstr.lean ====
section
/-! SUPPORT. Families of facts stated for each constructor of Instr, one lemma a constructor. -/

namespace Sys2Proof.Laws.OpcodeRow

/-- The instruction's word lies in its own row of the opcode map: `encode i & mask = match` (R66). -/
def Statement (i : Instr) : Prop := inOpcodeRow (encode i) i = true

theorem cls : Statement .cls := rfl

theorem ret : Statement .ret := rfl

theorem sys (nnn : Addr) : Statement (.sys nnn) := by
  rw [Statement, inOpcodeRow, opcodeRow, encode, wordNNN_and]; rfl

theorem jp (nnn : Addr) : Statement (.jp nnn) := by
  rw [Statement, inOpcodeRow, opcodeRow, encode, wordNNN_and]; rfl

theorem call (nnn : Addr) : Statement (.call nnn) := by
  rw [Statement, inOpcodeRow, opcodeRow, encode, wordNNN_and]; rfl

theorem seImm (x : Reg) (nn : Byte) : Statement (.seImm x nn) := by
  rw [Statement, inOpcodeRow, opcodeRow, encode, wordXNN_and_family]; rfl

theorem sneImm (x : Reg) (nn : Byte) : Statement (.sneImm x nn) := by
  rw [Statement, inOpcodeRow, opcodeRow, encode, wordXNN_and_family]; rfl

theorem seReg (x y : Reg) : Statement (.seReg x y) := by
  rw [Statement, inOpcodeRow, opcodeRow, encode, wordXYN_and]; rfl

theorem ldImm (x : Reg) (nn : Byte) : Statement (.ldImm x nn) := by
  rw [Statement, inOpcodeRow, opcodeRow, encode, wordXNN_and_family]; rfl

theorem addImm (x : Reg) (nn : Byte) : Statement (.addImm x nn) := by
  rw [Statement, inOpcodeRow, opcodeRow, encode, wordXNN_and_family]; rfl

theorem ldReg (x y : Reg) : Statement (.ldReg x y) := by
  rw [Statement, inOpcodeRow, opcodeRow, encode, wordXYN_and]; rfl

theorem orReg (x y : Reg) : Statement (.orReg x y) := by
  rw [Statement, inOpcodeRow, opcodeRow, encode, wordXYN_and]; rfl

theorem andReg (x y : Reg) : Statement (.andReg x y) := by
  rw [Statement, inOpcodeRow, opcodeRow, encode, wordXYN_and]; rfl

theorem xorReg (x y : Reg) : Statement (.xorReg x y) := by
  rw [Statement, inOpcodeRow, opcodeRow, encode, wordXYN_and]; rfl

theorem addReg (x y : Reg) : Statement (.addReg x y) := by
  rw [Statement, inOpcodeRow, opcodeRow, encode, wordXYN_and]; rfl

theorem subReg (x y : Reg) : Statement (.subReg x y) := by
  rw [Statement, inOpcodeRow, opcodeRow, encode, wordXYN_and]; rfl

theorem shr (x y : Reg) : Statement (.shr x y) := by
  rw [Statement, inOpcodeRow, opcodeRow, encode, wordXYN_and]; rfl

theorem subnReg (x y : Reg) : Statement (.subnReg x y) := by
  rw [Statement, inOpcodeRow, opcodeRow, encode, wordXYN_and]; rfl

theorem shl (x y : Reg) : Statement (.shl x y) := by
  rw [Statement, inOpcodeRow, opcodeRow, encode, wordXYN_and]; rfl

theorem sneReg (x y : Reg) : Statement (.sneReg x y) := by
  rw [Statement, inOpcodeRow, opcodeRow, encode, wordXYN_and]; rfl

theorem ldI (nnn : Addr) : Statement (.ldI nnn) := by
  rw [Statement, inOpcodeRow, opcodeRow, encode, wordNNN_and]; rfl

theorem jpV0 (nnn : Addr) : Statement (.jpV0 nnn) := by
  rw [Statement, inOpcodeRow, opcodeRow, encode, wordNNN_and]; rfl

theorem rnd (x : Reg) (nn : Byte) : Statement (.rnd x nn) := by
  rw [Statement, inOpcodeRow, opcodeRow, encode, wordXNN_and_family]; rfl

theorem drw (x y : Reg) (n : Fin 16) : Statement (.drw x y n) := by
  rw [Statement, inOpcodeRow, opcodeRow, encode, wordXYN_and_family]; rfl

theorem skp (x : Reg) : Statement (.skp x) := by
  rw [Statement, inOpcodeRow, opcodeRow, encode, wordXNN_and]; rfl

theorem sknp (x : Reg) : Statement (.sknp x) := by
  rw [Statement, inOpcodeRow, opcodeRow, encode, wordXNN_and]; rfl

theorem ldVxDT (x : Reg) : Statement (.ldVxDT x) := by
  rw [Statement, inOpcodeRow, opcodeRow, encode, wordXNN_and]; rfl

theorem ldVxK (x : Reg) : Statement (.ldVxK x) := by
  rw [Statement, inOpcodeRow, opcodeRow, encode, wordXNN_and]; rfl

theorem ldDTVx (x : Reg) : Statement (.ldDTVx x) := by
  rw [Statement, inOpcodeRow, opcodeRow, encode, wordXNN_and]; rfl

theorem ldSTVx (x : Reg) : Statement (.ldSTVx x) := by
  rw [Statement, inOpcodeRow, opcodeRow, encode, wordXNN_and]; rfl

theorem addI (x : Reg) : Statement (.addI x) := by
  rw [Statement, inOpcodeRow, opcodeRow, encode, wordXNN_and]; rfl

theorem ldF (x : Reg) : Statement (.ldF x) := by
  rw [Statement, inOpcodeRow, opcodeRow, encode, wordXNN_and]; rfl

theorem ldB (x : Reg) : Statement (.ldB x) := by
  rw [Statement, inOpcodeRow, opcodeRow, encode, wordXNN_and]; rfl

theorem storeRegs (x : Reg) : Statement (.storeRegs x) := by
  rw [Statement, inOpcodeRow, opcodeRow, encode, wordXNN_and]; rfl

theorem loadRegs (x : Reg) : Statement (.loadRegs x) := by
  rw [Statement, inOpcodeRow, opcodeRow, encode, wordXNN_and]; rfl

end Sys2Proof.Laws.OpcodeRow
end

