-- ==== Sys2Proof/Laws/State.lean ====
section
/-! SUPPORT. What each named update of the state does to each field, and to the four accessors of what it leaves
alone: true by unfolding once, so that no later proof unfolds a record update. -/

namespace Sys2Proof.Machine

/-! ### `setReg` -/

@[simp] theorem State.setReg_regs (s : State) (q : Reg) (v : Byte) : (s.setReg q v).regs = s.regs.set q v := rfl
@[simp] theorem State.setReg_index (s : State) (q : Reg) (v : Byte) : (s.setReg q v).index = s.index := rfl
@[simp] theorem State.setReg_pc (s : State) (q : Reg) (v : Byte) : (s.setReg q v).pc = s.pc := rfl
@[simp] theorem State.setReg_sp (s : State) (q : Reg) (v : Byte) : (s.setReg q v).sp = s.sp := rfl
@[simp] theorem State.setReg_stack (s : State) (q : Reg) (v : Byte) : (s.setReg q v).stack = s.stack := rfl
@[simp] theorem State.setReg_dt (s : State) (q : Reg) (v : Byte) : (s.setReg q v).dt = s.dt := rfl
@[simp] theorem State.setReg_st (s : State) (q : Reg) (v : Byte) : (s.setReg q v).st = s.st := rfl
@[simp] theorem State.setReg_keys (s : State) (q : Reg) (v : Byte) : (s.setReg q v).keys = s.keys := rfl
@[simp] theorem State.setReg_fb (s : State) (q : Reg) (v : Byte) : (s.setReg q v).fb = s.fb := rfl
@[simp] theorem State.setReg_redraw (s : State) (q : Reg) (v : Byte) : (s.setReg q v).redraw = s.redraw := rfl
@[simp] theorem State.setReg_mem (s : State) (q : Reg) (v : Byte) : (s.setReg q v).mem = s.mem := rfl
@[simp] theorem State.setReg_status (s : State) (q : Reg) (v : Byte) : (s.setReg q v).status = s.status := rfl
@[simp] theorem State.setReg_draws (s : State) (q : Reg) (v : Byte) : (s.setReg q v).draws = s.draws := rfl
@[simp] theorem State.setReg_key (s : State) (q : Reg) (v : Byte) (k : KeyCode) :
    (s.setReg q v).key k = s.key k := rfl
@[simp] theorem State.setReg_readByte (s : State) (q : Reg) (v : Byte) (a : Nat) :
    (s.setReg q v).readByte a = s.readByte a := rfl
@[simp] theorem State.setReg_pixel (s : State) (q : Reg) (v : Byte) (px : Column) (py : Row) :
    (s.setReg q v).pixel px py = s.pixel px py := rfl

/-! ### `setIndex` -/

@[simp] theorem State.setIndex_regs (s : State) (v : Word) : (s.setIndex v).regs = s.regs := rfl
@[simp] theorem State.setIndex_index (s : State) (v : Word) : (s.setIndex v).index = v := rfl
@[simp] theorem State.setIndex_pc (s : State) (v : Word) : (s.setIndex v).pc = s.pc := rfl
@[simp] theorem State.setIndex_sp (s : State) (v : Word) : (s.setIndex v).sp = s.sp := rfl
@[simp] theorem State.setIndex_stack (s : State) (v : Word) : (s.setIndex v).stack = s.stack := rfl
@[simp] theorem State.setIndex_dt (s : State) (v : Word) : (s.setIndex v).dt = s.dt := rfl
@[simp] theorem State.setIndex_st (s : State) (v : Word) : (s.setIndex v).st = s.st := rfl
@[simp] theorem State.setIndex_keys (s : State) (v : Word) : (s.setIndex v).keys = s.keys := rfl
@[simp] theorem State.setIndex_fb (s : State) (v : Word) : (s.setIndex v).fb = s.fb := rfl
@[simp] theorem State.setIndex_redraw (s : State) (v : Word) : (s.setIndex v).redraw = s.redraw := rfl
@[simp] theorem State.setIndex_mem (s : State) (v : Word) : (s.setIndex v).mem = s.mem := rfl
@[simp] theorem State.setIndex_status (s : State) (v : Word) : (s.setIndex v).status = s.status := rfl
@[simp] theorem State.setIndex_draws (s : State) (v : Word) : (s.setIndex v).draws = s.draws := rfl
@[simp] theorem State.setIndex_reg (s : State) (v : Word) (r : Reg) :
    (s.setIndex v).reg r = s.reg r := rfl
@[simp] theorem State.setIndex_key (s : State) (v : Word) (k : KeyCode) :
    (s.setIndex v).key k = s.key k := rfl
@[simp] theorem State.setIndex_readByte (s : State) (v : Word) (a : Nat) :
    (s.setIndex v).readByte a = s.readByte a := rfl
@[simp] theorem State.setIndex_pixel (s : State) (v : Word) (px : Column) (py : Row) :
    (s.setIndex v).pixel px py = s.pixel px py := rfl

/-! ### `setPc` -/

@[simp] theorem State.setPc_regs (s : State) (v : Word) : (s.setPc v).regs = s.regs := rfl
@[simp] theorem State.setPc_index (s : State) (v : Word) : (s.setPc v).index = s.index := rfl
@[simp] theorem State.setPc_pc (s : State) (v : Word) : (s.setPc v).pc = v := rfl
@[simp] theorem State.setPc_sp (s : State) (v : Word) : (s.setPc v).sp = s.sp := rfl
@[simp] theorem State.setPc_stack (s : State) (v : Word) : (s.setPc v).stack = s.stack := rfl
@[simp] theorem State.setPc_dt (s : State) (v : Word) : (s.setPc v).dt = s.dt := rfl
@[simp] theorem State.setPc_st (s : State) (v : Word) : (s.setPc v).st = s.st := rfl
@[simp] theorem State.setPc_keys (s : State) (v : Word) : (s.setPc v).keys = s.keys := rfl
@[simp] theorem State.setPc_fb (s : State) (v : Word) : (s.setPc v).fb = s.fb := rfl
@[simp] theorem State.setPc_redraw (s : State) (v : Word) : (s.setPc v).redraw = s.redraw := rfl
@[simp] theorem State.setPc_mem (s : State) (v : Word) : (s.setPc v).mem = s.mem := rfl
@[simp] theorem State.setPc_status (s : State) (v : Word) : (s.setPc v).status = s.status := rfl
@[simp] theorem State.setPc_draws (s : State) (v : Word) : (s.setPc v).draws = s.draws := rfl
@[simp] theorem State.setPc_reg (s : State) (v : Word) (r : Reg) :
    (s.setPc v).reg r = s.reg r := rfl
@[simp] theorem State.setPc_key (s : State) (v : Word) (k : KeyCode) :
    (s.setPc v).key k = s.key k := rfl
@[simp] theorem State.setPc_readByte (s : State) (v : Word) (a : Nat) :
    (s.setPc v).readByte a = s.readByte a := rfl
@[simp] theorem State.setPc_pixel (s : State) (v : Word) (px : Column) (py : Row) :
    (s.setPc v).pixel px py = s.pixel px py := rfl

/-! ### `setDT` -/

@[simp] theorem State.setDT_regs (s : State) (v : Byte) : (s.setDT v).regs = s.regs := rfl
@[simp] theorem State.setDT_index (s : State) (v : Byte) : (s.setDT v).index = s.index := rfl
@[simp] theorem State.setDT_pc (s : State) (v : Byte) : (s.setDT v).pc = s.pc := rfl
@[simp] theorem State.setDT_sp (s : State) (v : Byte) : (s.setDT v).sp = s.sp := rfl
@[simp] theorem State.setDT_stack (s : State) (v : Byte) : (s.setDT v).stack = s.stack := rfl
@[simp] theorem State.setDT_dt (s : State) (v : Byte) : (s.setDT v).dt = v := rfl
@[simp] theorem State.setDT_st (s : State) (v : Byte) : (s.setDT v).st = s.st := rfl
@[simp] theorem State.setDT_keys (s : State) (v : Byte) : (s.setDT v).keys = s.keys := rfl
@[simp] theorem State.setDT_fb (s : State) (v : Byte) : (s.setDT v).fb = s.fb := rfl
@[simp] theorem State.setDT_redraw (s : State) (v : Byte) : (s.setDT v).redraw = s.redraw := rfl
@[simp] theorem State.setDT_mem (s : State) (v : Byte) : (s.setDT v).mem = s.mem := rfl
@[simp] theorem State.setDT_status (s : State) (v : Byte) : (s.setDT v).status = s.status := rfl
@[simp] theorem State.setDT_draws (s : State) (v : Byte) : (s.setDT v).draws = s.draws := rfl
@[simp] theorem State.setDT_reg (s : State) (v : Byte) (r : Reg) :
    (s.setDT v).reg r = s.reg r := rfl
@[simp] theorem State.setDT_key (s : State) (v : Byte) (k : KeyCode) :
    (s.setDT v).key k = s.key k := rfl
@[simp] theorem State.setDT_readByte (s : State) (v : Byte) (a : Nat) :
    (s.setDT v).readByte a = s.readByte a := rfl
@[simp] theorem State.setDT_pixel (s : State) (v : Byte) (px : Column) (py : Row) :
    (s.setDT v).pixel px py = s.pixel px py := rfl

/-! ### `setST` -/

@[simp] theorem State.setST_regs (s : State) (v : Byte) : (s.setST v).regs = s.regs := rfl
@[simp] theorem State.setST_index (s : State) (v : Byte) : (s.setST v).index = s.index := rfl
@[simp] theorem State.setST_pc (s : State) (v : Byte) : (s.setST v).pc = s.pc := rfl
@[simp] theorem State.setST_sp (s : State) (v : Byte) : (s.setST v).sp = s.sp := rfl
@[simp] theorem State.setST_stack (s : State) (v : Byte) : (s.setST v).stack = s.stack := rfl
@[simp] theorem State.setST_dt (s : State) (v : Byte) : (s.setST v).dt = s.dt := rfl
@[simp] theorem State.setST_st (s : State) (v : Byte) : (s.setST v).st = v := rfl
@[simp] theorem State.setST_keys (s : State) (v : Byte) : (s.setST v).keys = s.keys := rfl
@[simp] theorem State.setST_fb (s : State) (v : Byte) : (s.setST v).fb = s.fb := rfl
@[simp] theorem State.setST_redraw (s : State) (v : Byte) : (s.setST v).redraw = s.redraw := rfl
@[simp] theorem State.setST_mem (s : State) (v : Byte) : (s.setST v).mem = s.mem := rfl
@[simp] theorem State.setST_status (s : State) (v : Byte) : (s.setST v).status = s.status := rfl
@[simp] theorem State.setST_draws (s : State) (v : Byte) : (s.setST v).draws = s.draws := rfl
@[simp] theorem State.setST_reg (s : State) (v : Byte) (r : Reg) :
    (s.setST v).reg r = s.reg r := rfl
@[simp] theorem State.setST_key (s : State) (v : Byte) (k : KeyCode) :
    (s.setST v).key k = s.key k := rfl
@[simp] theorem State.setST_readByte (s : State) (v : Byte) (a : Nat) :
    (s.setST v).readByte a = s.readByte a := rfl
@[simp] theorem State.setST_pixel (s : State) (v : Byte) (px : Column) (py : Row) :
    (s.setST v).pixel px py = s.pixel px py := rfl

/-! ### `setMem` -/

@[simp] theorem State.setMem_regs (s : State) (m : Memory) : (s.setMem m).regs = s.regs := rfl
@[simp] theorem State.setMem_index (s : State) (m : Memory) : (s.setMem m).index = s.index := rfl
@[simp] theorem State.setMem_pc (s : State) (m : Memory) : (s.setMem m).pc = s.pc := rfl
@[simp] theorem State.setMem_sp (s : State) (m : Memory) : (s.setMem m).sp = s.sp := rfl
@[simp] theorem State.setMem_stack (s : State) (m : Memory) : (s.setMem m).stack = s.stack := rfl
@[simp] theorem State.setMem_dt (s : State) (m : Memory) : (s.setMem m).dt = s.dt := rfl
@[simp] theorem State.setMem_st (s : State) (m : Memory) : (s.setMem m).st = s.st := rfl
@[simp] theorem State.setMem_keys (s : State) (m : Memory) : (s.setMem m).keys = s.keys := rfl
@[simp] theorem State.setMem_fb (s : State) (m : Memory) : (s.setMem m).fb = s.fb := rfl
@[simp] theorem State.setMem_redraw (s : State) (m : Memory) : (s.setMem m).redraw = s.redraw := rfl
@[simp] theorem State.setMem_mem (s : State) (m : Memory) : (s.setMem m).mem = m := rfl
@[simp] theorem State.setMem_status (s : State) (m : Memory) : (s.setMem m).status = s.status := rfl
@[simp] theorem State.setMem_draws (s : State) (m : Memory) : (s.setMem m).draws = s.draws := rfl
@[simp] theorem State.setMem_reg (s : State) (m : Memory) (r : Reg) :
    (s.setMem m).reg r = s.reg r := rfl
@[simp] theorem State.setMem_key (s : State) (m : Memory) (k : KeyCode) :
    (s.setMem m).key k = s.key k := rfl
@[simp] theorem State.setMem_pixel (s : State) (m : Memory) (px : Column) (py : Row) :
    (s.setMem m).pixel px py = s.pixel px py := rfl

/-! ### `setScreen` -/

@[simp] theorem State.setScreen_regs (s : State) (f : Screen) : (s.setScreen f).regs = s.regs := rfl
@[simp] theorem State.setScreen_index (s : State) (f : Screen) : (s.setScreen f).index = s.index := rfl
@[simp] theorem State.setScreen_pc (s : State) (f : Screen) : (s.setScreen f).pc = s.pc := rfl
@[simp] theorem State.setScreen_sp (s : State) (f : Screen) : (s.setScreen f).sp = s.sp := rfl
@[simp] theorem State.setScreen_stack (s : State) (f : Screen) : (s.setScreen f).stack = s.stack := rfl
@[simp] theorem State.setScreen_dt (s : State) (f : Screen) : (s.setScreen f).dt = s.dt := rfl
@[simp] theorem State.setScreen_st (s : State) (f : Screen) : (s.setScreen f).st = s.st := rfl
@[simp] theorem State.setScreen_keys (s : State) (f : Screen) : (s.setScreen f).keys = s.keys := rfl
@[simp] theorem State.setScreen_fb (s : State) (f : Screen) : (s.setScreen f).fb = f := rfl
@[simp] theorem State.setScreen_redraw (s : State) (f : Screen) : (s.setScreen f).redraw = true := rfl
@[simp] theorem State.setScreen_mem (s : State) (f : Screen) : (s.setScreen f).mem = s.mem := rfl
@[simp] theorem State.setScreen_status (s : State) (f : Screen) : (s.setScreen f).status = s.status := rfl
@[simp] theorem State.setScreen_draws (s : State) (f : Screen) : (s.setScreen f).draws = s.draws := rfl
@[simp] theorem State.setScreen_reg (s : State) (f : Screen) (r : Reg) :
    (s.setScreen f).reg r = s.reg r := rfl
@[simp] theorem State.setScreen_key (s : State) (f : Screen) (k : KeyCode) :
    (s.setScreen f).key k = s.key k := rfl
@[simp] theorem State.setScreen_readByte (s : State) (f : Screen) (a : Nat) :
    (s.setScreen f).readByte a = s.readByte a := rfl

/-! ### `setStatus` -/

@[simp] theorem State.setStatus_regs (s : State) (c : Status) : (s.setStatus c).regs = s.regs := rfl
@[simp] theorem State.setStatus_index (s : State) (c : Status) : (s.setStatus c).index = s.index := rfl
@[simp] theorem State.setStatus_pc (s : State) (c : Status) : (s.setStatus c).pc = s.pc := rfl
@[simp] theorem State.setStatus_sp (s : State) (c : Status) : (s.setStatus c).sp = s.sp := rfl
@[simp] theorem State.setStatus_stack (s : State) (c : Status) : (s.setStatus c).stack = s.stack := rfl
@[simp] theorem State.setStatus_dt (s : State) (c : Status) : (s.setStatus c).dt = s.dt := rfl
@[simp] theorem State.setStatus_st (s : State) (c : Status) : (s.setStatus c).st = s.st := rfl
@[simp] theorem State.setStatus_keys (s : State) (c : Status) : (s.setStatus c).keys = s.keys := rfl
@[simp] theorem State.setStatus_fb (s : State) (c : Status) : (s.setStatus c).fb = s.fb := rfl
@[simp] theorem State.setStatus_redraw (s : State) (c : Status) : (s.setStatus c).redraw = s.redraw := rfl
@[simp] theorem State.setStatus_mem (s : State) (c : Status) : (s.setStatus c).mem = s.mem := rfl
@[simp] theorem State.setStatus_status (s : State) (c : Status) : (s.setStatus c).status = c := rfl
@[simp] theorem State.setStatus_draws (s : State) (c : Status) : (s.setStatus c).draws = s.draws := rfl
@[simp] theorem State.setStatus_reg (s : State) (c : Status) (r : Reg) :
    (s.setStatus c).reg r = s.reg r := rfl
@[simp] theorem State.setStatus_key (s : State) (c : Status) (k : KeyCode) :
    (s.setStatus c).key k = s.key k := rfl
@[simp] theorem State.setStatus_readByte (s : State) (c : Status) (a : Nat) :
    (s.setStatus c).readByte a = s.readByte a := rfl
@[simp] theorem State.setStatus_pixel (s : State) (c : Status) (px : Column) (py : Row) :
    (s.setStatus c).pixel px py = s.pixel px py := rfl

/-! ### `countDraw` -/

@[simp] theorem State.countDraw_regs (s : State) : (s.countDraw).regs = s.regs := rfl
@[simp] theorem State.countDraw_index (s : State) : (s.countDraw).index = s.index := rfl
@[simp] theorem State.countDraw_pc (s : State) : (s.countDraw).pc = s.pc := rfl
@[simp] theorem State.countDraw_sp (s : State) : (s.countDraw).sp = s.sp := rfl
@[simp] theorem State.countDraw_stack (s : State) : (s.countDraw).stack = s.stack := rfl
@[simp] theorem State.countDraw_dt (s : State) : (s.countDraw).dt = s.dt := rfl
@[simp] theorem State.countDraw_st (s : State) : (s.countDraw).st = s.st := rfl
@[simp] theorem State.countDraw_keys (s : State) : (s.countDraw).keys = s.keys := rfl
@[simp] theorem State.countDraw_fb (s : State) : (s.countDraw).fb = s.fb := rfl
@[simp] theorem State.countDraw_redraw (s : State) : (s.countDraw).redraw = s.redraw := rfl
@[simp] theorem State.countDraw_mem (s : State) : (s.countDraw).mem = s.mem := rfl
@[simp] theorem State.countDraw_status (s : State) : (s.countDraw).status = s.status := rfl
@[simp] theorem State.countDraw_draws (s : State) : (s.countDraw).draws = s.draws + 1 := rfl
@[simp] theorem State.countDraw_reg (s : State) (r : Reg) :
    (s.countDraw).reg r = s.reg r := rfl
@[simp] theorem State.countDraw_key (s : State) (k : KeyCode) :
    (s.countDraw).key k = s.key k := rfl
@[simp] theorem State.countDraw_readByte (s : State) (a : Nat) :
    (s.countDraw).readByte a = s.readByte a := rfl
@[simp] theorem State.countDraw_pixel (s : State) (px : Column) (py : Row) :
    (s.countDraw).pixel px py = s.pixel px py := rfl

/-! ### `next` -/

@[simp] theorem State.next_regs (s : State) : (s.next).regs = s.regs := rfl
@[simp] theorem State.next_index (s : State) : (s.next).index = s.index := rfl
@[simp] theorem nextAddress_eq (pc : Word) : nextAddress pc = pc + 2#16 := rfl
@[simp] theorem State.next_pc (s : State) : (s.next).pc = s.pc + 2#16 := rfl
@[simp] theorem State.next_sp (s : State) : (s.next).sp = s.sp := rfl
@[simp] theorem State.next_stack (s : State) : (s.next).stack = s.stack := rfl
@[simp] theorem State.next_dt (s : State) : (s.next).dt = s.dt := rfl
@[simp] theorem State.next_st (s : State) : (s.next).st = s.st := rfl
@[simp] theorem State.next_keys (s : State) : (s.next).keys = s.keys := rfl
@[simp] theorem State.next_fb (s : State) : (s.next).fb = s.fb := rfl
@[simp] theorem State.next_redraw (s : State) : (s.next).redraw = s.redraw := rfl
@[simp] theorem State.next_mem (s : State) : (s.next).mem = s.mem := rfl
@[simp] theorem State.next_status (s : State) : (s.next).status = s.status := rfl
@[simp] theorem State.next_draws (s : State) : (s.next).draws = s.draws := rfl
@[simp] theorem State.next_reg (s : State) (r : Reg) :
    (s.next).reg r = s.reg r := rfl
@[simp] theorem State.next_key (s : State) (k : KeyCode) :
    (s.next).key k = s.key k := rfl
@[simp] theorem State.next_readByte (s : State) (a : Nat) :
    (s.next).readByte a = s.readByte a := rfl
@[simp] theorem State.next_pixel (s : State) (px : Column) (py : Row) :
    (s.next).pixel px py = s.pixel px py := rfl

/-! ### `skip` -/

@[simp] theorem State.skip_regs (s : State) : (s.skip).regs = s.regs := rfl
@[simp] theorem State.skip_index (s : State) : (s.skip).index = s.index := rfl
@[simp] theorem State.skip_pc (s : State) : (s.skip).pc = s.pc + 4#16 := rfl
@[simp] theorem State.skip_sp (s : State) : (s.skip).sp = s.sp := rfl
@[simp] theorem State.skip_stack (s : State) : (s.skip).stack = s.stack := rfl
@[simp] theorem State.skip_dt (s : State) : (s.skip).dt = s.dt := rfl
@[simp] theorem State.skip_st (s : State) : (s.skip).st = s.st := rfl
@[simp] theorem State.skip_keys (s : State) : (s.skip).keys = s.keys := rfl
@[simp] theorem State.skip_fb (s : State) : (s.skip).fb = s.fb := rfl
@[simp] theorem State.skip_redraw (s : State) : (s.skip).redraw = s.redraw := rfl
@[simp] theorem State.skip_mem (s : State) : (s.skip).mem = s.mem := rfl
@[simp] theorem State.skip_status (s : State) : (s.skip).status = s.status := rfl
@[simp] theorem State.skip_draws (s : State) : (s.skip).draws = s.draws := rfl
@[simp] theorem State.skip_reg (s : State) (r : Reg) :
    (s.skip).reg r = s.reg r := rfl
@[simp] theorem State.skip_key (s : State) (k : KeyCode) :
    (s.skip).key k = s.key k := rfl
@[simp] theorem State.skip_readByte (s : State) (a : Nat) :
    (s.skip).readByte a = s.readByte a := rfl
@[simp] theorem State.skip_pixel (s : State) (px : Column) (py : Row) :
    (s.skip).pixel px py = s.pixel px py := rfl

/-! ### `tick` -/

@[simp] theorem State.tick_regs (s : State) : (s.tick).regs = s.regs := rfl
@[simp] theorem State.tick_index (s : State) : (s.tick).index = s.index := rfl
@[simp] theorem State.tick_pc (s : State) : (s.tick).pc = s.pc := rfl
@[simp] theorem State.tick_sp (s : State) : (s.tick).sp = s.sp := rfl
@[simp] theorem State.tick_stack (s : State) : (s.tick).stack = s.stack := rfl
@[simp] theorem State.tick_dt (s : State) : (s.tick).dt = tickTimer s.dt := rfl
@[simp] theorem State.tick_st (s : State) : (s.tick).st = tickTimer s.st := rfl
@[simp] theorem State.tick_keys (s : State) : (s.tick).keys = s.keys := rfl
@[simp] theorem State.tick_fb (s : State) : (s.tick).fb = s.fb := rfl
@[simp] theorem State.tick_redraw (s : State) : (s.tick).redraw = s.redraw := rfl
@[simp] theorem State.tick_mem (s : State) : (s.tick).mem = s.mem := rfl
@[simp] theorem State.tick_status (s : State) : (s.tick).status = s.status := rfl
@[simp] theorem State.tick_draws (s : State) : (s.tick).draws = s.draws := rfl
@[simp] theorem State.tick_reg (s : State) (r : Reg) :
    (s.tick).reg r = s.reg r := rfl
@[simp] theorem State.tick_key (s : State) (k : KeyCode) :
    (s.tick).key k = s.key k := rfl
@[simp] theorem State.tick_readByte (s : State) (a : Nat) :
    (s.tick).readByte a = s.readByte a := rfl
@[simp] theorem State.tick_pixel (s : State) (px : Column) (py : Row) :
    (s.tick).pixel px py = s.pixel px py := rfl

/-! ### `setKey` -/

@[simp] theorem State.setKey_regs (s : State) (q : KeyCode) (b : Bool) : (State.setKey q b s).regs = s.regs := rfl
@[simp] theorem State.setKey_index (s : State) (q : KeyCode) (b : Bool) : (State.setKey q b s).index = s.index := rfl
@[simp] theorem State.setKey_pc (s : State) (q : KeyCode) (b : Bool) : (State.setKey q b s).pc = s.pc := rfl
@[simp] theorem State.setKey_sp (s : State) (q : KeyCode) (b : Bool) : (State.setKey q b s).sp = s.sp := rfl
@[simp] theorem State.setKey_stack (s : State) (q : KeyCode) (b : Bool) : (State.setKey q b s).stack = s.stack := rfl
@[simp] theorem State.setKey_dt (s : State) (q : KeyCode) (b : Bool) : (State.setKey q b s).dt = s.dt := rfl
@[simp] theorem State.setKey_st (s : State) (q : KeyCode) (b : Bool) : (State.setKey q b s).st = s.st := rfl
@[simp] theorem State.setKey_keys (s : State) (q : KeyCode) (b : Bool) : (State.setKey q b s).keys = s.keys.set q b := rfl
@[simp] theorem State.setKey_fb (s : State) (q : KeyCode) (b : Bool) : (State.setKey q b s).fb = s.fb := rfl
@[simp] theorem State.setKey_redraw (s : State) (q : KeyCode) (b : Bool) : (State.setKey q b s).redraw = s.redraw := rfl
@[simp] theorem State.setKey_mem (s : State) (q : KeyCode) (b : Bool) : (State.setKey q b s).mem = s.mem := rfl
@[simp] theorem State.setKey_status (s : State) (q : KeyCode) (b : Bool) : (State.setKey q b s).status = s.status := rfl
@[simp] theorem State.setKey_draws (s : State) (q : KeyCode) (b : Bool) : (State.setKey q b s).draws = s.draws := rfl
@[simp] theorem State.setKey_reg (s : State) (q : KeyCode) (b : Bool) (r : Reg) :
    (State.setKey q b s).reg r = s.reg r := rfl
@[simp] theorem State.setKey_readByte (s : State) (q : KeyCode) (b : Bool) (a : Nat) :
    (State.setKey q b s).readByte a = s.readByte a := rfl
@[simp] theorem State.setKey_pixel (s : State) (q : KeyCode) (b : Bool) (px : Column) (py : Row) :
    (State.setKey q b s).pixel px py = s.pixel px py := rfl

/-! ### `clearRedraw` -/

@[simp] theorem State.clearRedraw_regs (s : State) : (s.clearRedraw).regs = s.regs := rfl
@[simp] theorem State.clearRedraw_index (s : State) : (s.clearRedraw).index = s.index := rfl
@[simp] theorem State.clearRedraw_pc (s : State) : (s.clearRedraw).pc = s.pc := rfl
@[simp] theorem State.clearRedraw_sp (s : State) : (s.clearRedraw).sp = s.sp := rfl
@[simp] theorem State.clearRedraw_stack (s : State) : (s.clearRedraw).stack = s.stack := rfl
@[simp] theorem State.clearRedraw_dt (s : State) : (s.clearRedraw).dt = s.dt := rfl
@[simp] theorem State.clearRedraw_st (s : State) : (s.clearRedraw).st = s.st := rfl
@[simp] theorem State.clearRedraw_keys (s : State) : (s.clearRedraw).keys = s.keys := rfl
@[simp] theorem State.clearRedraw_fb (s : State) : (s.clearRedraw).fb = s.fb := rfl
@[simp] theorem State.clearRedraw_redraw (s : State) : (s.clearRedraw).redraw = false := rfl
@[simp] theorem State.clearRedraw_mem (s : State) : (s.clearRedraw).mem = s.mem := rfl
@[simp] theorem State.clearRedraw_status (s : State) : (s.clearRedraw).status = s.status := rfl
@[simp] theorem State.clearRedraw_draws (s : State) : (s.clearRedraw).draws = s.draws := rfl
@[simp] theorem State.clearRedraw_reg (s : State) (r : Reg) :
    (s.clearRedraw).reg r = s.reg r := rfl
@[simp] theorem State.clearRedraw_key (s : State) (k : KeyCode) :
    (s.clearRedraw).key k = s.key k := rfl
@[simp] theorem State.clearRedraw_readByte (s : State) (a : Nat) :
    (s.clearRedraw).readByte a = s.readByte a := rfl
@[simp] theorem State.clearRedraw_pixel (s : State) (px : Column) (py : Row) :
    (s.clearRedraw).pixel px py = s.pixel px py := rfl

/-! ### `skipIf` -/

@[simp] theorem State.skipIf_pc (s : State) (b : Bool) :
    (s.skipIf b).pc = if b then s.pc + 4#16 else s.pc + 2#16 := by cases b <;> rfl
@[simp] theorem State.skipIf_regs (s : State) (b : Bool) : (s.skipIf b).regs = s.regs := by cases b <;> rfl
@[simp] theorem State.skipIf_index (s : State) (b : Bool) : (s.skipIf b).index = s.index := by cases b <;> rfl
@[simp] theorem State.skipIf_sp (s : State) (b : Bool) : (s.skipIf b).sp = s.sp := by cases b <;> rfl
@[simp] theorem State.skipIf_stack (s : State) (b : Bool) : (s.skipIf b).stack = s.stack := by cases b <;> rfl
@[simp] theorem State.skipIf_dt (s : State) (b : Bool) : (s.skipIf b).dt = s.dt := by cases b <;> rfl
@[simp] theorem State.skipIf_st (s : State) (b : Bool) : (s.skipIf b).st = s.st := by cases b <;> rfl
@[simp] theorem State.skipIf_keys (s : State) (b : Bool) : (s.skipIf b).keys = s.keys := by cases b <;> rfl
@[simp] theorem State.skipIf_fb (s : State) (b : Bool) : (s.skipIf b).fb = s.fb := by cases b <;> rfl
@[simp] theorem State.skipIf_redraw (s : State) (b : Bool) : (s.skipIf b).redraw = s.redraw := by cases b <;> rfl
@[simp] theorem State.skipIf_mem (s : State) (b : Bool) : (s.skipIf b).mem = s.mem := by cases b <;> rfl
@[simp] theorem State.skipIf_status (s : State) (b : Bool) : (s.skipIf b).status = s.status := by cases b <;> rfl
@[simp] theorem State.skipIf_draws (s : State) (b : Bool) : (s.skipIf b).draws = s.draws := by cases b <;> rfl
@[simp] theorem State.skipIf_reg (s : State) (b : Bool) (r : Reg) :
    (s.skipIf b).reg r = s.reg r := by cases b <;> rfl
@[simp] theorem State.skipIf_key (s : State) (b : Bool) (k : KeyCode) :
    (s.skipIf b).key k = s.key k := by cases b <;> rfl
@[simp] theorem State.skipIf_readByte (s : State) (b : Bool) (a : Nat) :
    (s.skipIf b).readByte a = s.readByte a := by cases b <;> rfl
@[simp] theorem State.skipIf_pixel (s : State) (b : Bool) (px : Column) (py : Row) :
    (s.skipIf b).pixel px py = s.pixel px py := by cases b <;> rfl

/-! ### The accessors of the pieces an update changes -/

/-- A register reads back what was written to it, and every other register is left alone (R7). -/
theorem State.reg_setReg (s : State) (q r : Reg) (v : Byte) :
    (s.setReg q v).reg r = if r = q then v else s.reg r := by
  simp only [State.reg, State.setReg, Fin.getElem_fin, Vector.getElem_set, Fin.ext_iff, eq_comm]

@[simp] theorem State.reg_setReg_self (s : State) (q : Reg) (v : Byte) : (s.setReg q v).reg q = v := by
  simp [State.reg_setReg]

theorem State.reg_setReg_of_ne (s : State) {q r : Reg} (v : Byte) (h : r ≠ q) :
    (s.setReg q v).reg r = s.reg r := by
  simp [State.reg_setReg, h]

/-- A flagged result: VF holds the flag whatever `x` is, `V[x]` the result unless `x = 15` (R130). -/
theorem State.reg_setRegFlag (s : State) (x r : Reg) (v : Byte) (flag : Bool) :
    (s.setRegFlag x v flag).reg r = if r = VF then flagByte flag else if r = x then v else s.reg r := by
  simp only [State.setRegFlag, State.reg_setReg]

@[simp] theorem State.readByte_setMem (s : State) (m : Memory) (a : Nat) :
    (s.setMem m).readByte a = Memory.read m a := rfl

@[simp] theorem State.pixel_setScreen (s : State) (f : Screen) (px : Column) (py : Row) :
    (s.setScreen f).pixel px py = pixelOf f px py := rfl

/-- A key reads back as the host set it, and every other key is left alone (R223). -/
theorem State.key_setKey (s : State) (q k : KeyCode) (b : Bool) :
    (State.setKey q b s).key k = if k = q then b else s.key k := by
  simp only [State.key, State.setKey, Fin.getElem_fin, Vector.getElem_set, Fin.ext_iff, eq_comm]

/-! ### `setRegFlag` and `setRegsUpTo`: only the registers change -/

@[simp] theorem State.setRegFlag_index (s : State) (x : Reg) (v : Byte) (b : Bool) : (s.setRegFlag x v b).index = s.index := rfl
@[simp] theorem State.setRegFlag_pc (s : State) (x : Reg) (v : Byte) (b : Bool) : (s.setRegFlag x v b).pc = s.pc := rfl
@[simp] theorem State.setRegFlag_sp (s : State) (x : Reg) (v : Byte) (b : Bool) : (s.setRegFlag x v b).sp = s.sp := rfl
@[simp] theorem State.setRegFlag_stack (s : State) (x : Reg) (v : Byte) (b : Bool) : (s.setRegFlag x v b).stack = s.stack := rfl
@[simp] theorem State.setRegFlag_dt (s : State) (x : Reg) (v : Byte) (b : Bool) : (s.setRegFlag x v b).dt = s.dt := rfl
@[simp] theorem State.setRegFlag_st (s : State) (x : Reg) (v : Byte) (b : Bool) : (s.setRegFlag x v b).st = s.st := rfl
@[simp] theorem State.setRegFlag_keys (s : State) (x : Reg) (v : Byte) (b : Bool) : (s.setRegFlag x v b).keys = s.keys := rfl
@[simp] theorem State.setRegFlag_fb (s : State) (x : Reg) (v : Byte) (b : Bool) : (s.setRegFlag x v b).fb = s.fb := rfl
@[simp] theorem State.setRegFlag_redraw (s : State) (x : Reg) (v : Byte) (b : Bool) : (s.setRegFlag x v b).redraw = s.redraw := rfl
@[simp] theorem State.setRegFlag_mem (s : State) (x : Reg) (v : Byte) (b : Bool) : (s.setRegFlag x v b).mem = s.mem := rfl
@[simp] theorem State.setRegFlag_status (s : State) (x : Reg) (v : Byte) (b : Bool) : (s.setRegFlag x v b).status = s.status := rfl
@[simp] theorem State.setRegFlag_draws (s : State) (x : Reg) (v : Byte) (b : Bool) : (s.setRegFlag x v b).draws = s.draws := rfl
@[simp] theorem State.setRegFlag_key (s : State) (x : Reg) (v : Byte) (b : Bool) (k : KeyCode) :
    (s.setRegFlag x v b).key k = s.key k := rfl
@[simp] theorem State.setRegFlag_readByte (s : State) (x : Reg) (v : Byte) (b : Bool) (a : Nat) :
    (s.setRegFlag x v b).readByte a = s.readByte a := rfl
@[simp] theorem State.setRegFlag_pixel (s : State) (x : Reg) (v : Byte) (b : Bool) (px : Column) (py : Row) :
    (s.setRegFlag x v b).pixel px py = s.pixel px py := rfl
@[simp] theorem State.setRegsUpTo_index (s : State) (x : Reg) (l : List Byte) : (s.setRegsUpTo x l).index = s.index := rfl
@[simp] theorem State.setRegsUpTo_pc (s : State) (x : Reg) (l : List Byte) : (s.setRegsUpTo x l).pc = s.pc := rfl
@[simp] theorem State.setRegsUpTo_sp (s : State) (x : Reg) (l : List Byte) : (s.setRegsUpTo x l).sp = s.sp := rfl
@[simp] theorem State.setRegsUpTo_stack (s : State) (x : Reg) (l : List Byte) : (s.setRegsUpTo x l).stack = s.stack := rfl
@[simp] theorem State.setRegsUpTo_dt (s : State) (x : Reg) (l : List Byte) : (s.setRegsUpTo x l).dt = s.dt := rfl
@[simp] theorem State.setRegsUpTo_st (s : State) (x : Reg) (l : List Byte) : (s.setRegsUpTo x l).st = s.st := rfl
@[simp] theorem State.setRegsUpTo_keys (s : State) (x : Reg) (l : List Byte) : (s.setRegsUpTo x l).keys = s.keys := rfl
@[simp] theorem State.setRegsUpTo_fb (s : State) (x : Reg) (l : List Byte) : (s.setRegsUpTo x l).fb = s.fb := rfl
@[simp] theorem State.setRegsUpTo_redraw (s : State) (x : Reg) (l : List Byte) : (s.setRegsUpTo x l).redraw = s.redraw := rfl
@[simp] theorem State.setRegsUpTo_mem (s : State) (x : Reg) (l : List Byte) : (s.setRegsUpTo x l).mem = s.mem := rfl
@[simp] theorem State.setRegsUpTo_status (s : State) (x : Reg) (l : List Byte) : (s.setRegsUpTo x l).status = s.status := rfl
@[simp] theorem State.setRegsUpTo_draws (s : State) (x : Reg) (l : List Byte) : (s.setRegsUpTo x l).draws = s.draws := rfl
@[simp] theorem State.setRegsUpTo_key (s : State) (x : Reg) (l : List Byte) (k : KeyCode) :
    (s.setRegsUpTo x l).key k = s.key k := rfl
@[simp] theorem State.setRegsUpTo_readByte (s : State) (x : Reg) (l : List Byte) (a : Nat) :
    (s.setRegsUpTo x l).readByte a = s.readByte a := rfl
@[simp] theorem State.setRegsUpTo_pixel (s : State) (x : Reg) (l : List Byte) (px : Column) (py : Row) :
    (s.setRegsUpTo x l).pixel px py = s.pixel px py := rfl

end Sys2Proof.Machine
end

