-- ==== Sys2Proof/Laws/Registers.lean ====
section
/-! SUPPORT. What the block register operations, the stack, the index checks and the key scan do. -/

namespace Sys2Proof.Machine

/-! ### Blocks of registers (R194, R195) -/

@[simp] theorem State.length_regsUpTo (s : State) (x : Reg) : (s.regsUpTo x).length = x.val + 1 := by
  simp [State.regsUpTo, Nat.succ_le_of_lt x.isLt]

/-- Byte `k` of the stored block is `V[k]`. -/
theorem State.getD_regsUpTo (s : State) {x k : Reg} (h : k ≤ x) (d : Byte) :
    (s.regsUpTo x).getD k.val d = s.reg k := by
  have h1 : k.val < x.val + 1 := Nat.lt_succ_of_le h
  simp [State.regsUpTo, List.getD_eq_getElem?_getD, h1, State.reg]

/-- Loading a block: `V[k]` for `k` up to `x` is byte `k`, every other register is left alone. -/
theorem State.reg_setRegsUpTo (s : State) (x k : Reg) (bytes : List Byte) :
    (s.setRegsUpTo x bytes).reg k = if k ≤ x then bytes.getD k.val (s.reg k) else s.reg k := by
  simp [State.reg, State.setRegsUpTo]

/-! ### The stack (R15) -/

/-- A push with room: the address is in the old top slot, the depth one more, the other slots as before. -/
theorem push_ok {s : State} (a : Word) (h : s.sp.val < 16) :
    push a s = .ok { s with stack := s.stack.set s.sp.val a h, sp := ⟨s.sp.val + 1, Nat.succ_lt_succ h⟩ } :=
  dif_pos h

theorem push_full {s : State} (a : Word) (h : s.sp.val = 16) :
    push a s = .error (.bounds .stackOverflow 16) := dif_neg (Nat.not_lt_of_le (Nat.le_of_eq h.symm))

/-- A pop from a stack that is not empty. -/
theorem pop_ok {s : State} (h : s.sp.val ≠ 0) :
    pop s = .ok (s.stack[s.sp.val - 1]'(Nat.lt_of_lt_of_le (Nat.sub_one_lt h) s.sp_le),
      { s with sp := ⟨s.sp.val - 1, Nat.lt_of_le_of_lt (Nat.sub_le _ _) s.sp.isLt⟩ }) := dif_neg h

theorem pop_empty {s : State} (h : s.sp.val = 0) : pop s = .error (.bounds .stackUnderflow 0) := dif_pos h

/-! ### Index checks (R152, R180) -/

theorem checkIndex_ok {kind : BoundsKind} {count : Nat} {v : Byte} (h : v.toNat < count) :
    checkIndex kind count v = .ok ⟨v.toNat, h⟩ := dif_pos h

theorem checkIndex_error {kind : BoundsKind} {count : Nat} {v : Byte} (h : ¬ v.toNat < count) :
    checkIndex kind count v = .error (.bounds kind v.toNat) := dif_neg h

/-! ### The key scan (R182) -/

/-- The scan answers a held key below which none is held. -/
theorem lowestKey_eq_some {s : State} {k : KeyCode} :
    s.lowestKey = some k ↔ s.key k = true ∧ ∀ j, j < k → s.key j = false := by
  rw [State.lowestKey, List.find?_eq_some_iff_getElem]
  constructor
  · rintro ⟨h, i, hi, rfl, hlt⟩
    refine ⟨h, fun j hj => ?_⟩
    have := hlt j.val (by simpa [Fin.lt_def] using hj)
    simpa using this
  · rintro ⟨h, hlt⟩
    exact ⟨h, k.val, by simp, by simp, fun j hj => by simpa using hlt ⟨j, by omega⟩ (by simpa [Fin.lt_def] using hj)⟩

/-- The scan answers nothing iff no key is held. -/
theorem lowestKey_eq_none {s : State} : s.lowestKey = none ↔ ∀ k, s.key k = false := by
  simp [State.lowestKey]

/-! ### The tick (R220) -/

/-- A timer after a tick: down by one, stopping at 0. -/
theorem toNat_tickTimer (t : Byte) : (tickTimer t).toNat = t.toNat - 1 := by
  unfold tickTimer
  split
  · simp_all
  · bv_omega

end Sys2Proof.Machine
end

