-- ==== Sys2Proof/Laws/Screen.lean ====
section
/-! SUPPORT. What the sprite-compositing unit does (45_draw.md R171), said pixel by pixel: a pixel is toggled iff a
1 bit of the sprite lands on it, and `hit` tells whether one of those pixels was set. -/

namespace Sys2Proof.Machine

/-- Toggling one pixel changes that pixel and no other. -/
theorem pixelOf_togglePixel (fb : Screen) (px qx : Column) (py qy : Row) :
    pixelOf (togglePixel fb px py) qx qy =
      (pixelOf fb qx qy ^^ (decide (px = qx) && decide (py = qy))) := by
  simp only [pixelOf, togglePixel, Fin.getElem_fin, Vector.getElem_set]
  by_cases hy : py = qy
  · subst hy
    by_cases hx : px = qx
    · subst hx; simp
    · simp [hx, Fin.val_ne_of_ne hx]
  · simp [hy, Fin.val_ne_of_ne hy]

@[simp] theorem pixelOf_blankScreen (px : Column) (py : Row) : pixelOf blankScreen px py = false := by
  simp [pixelOf, blankScreen]

/-- Two framebuffers with the same pixels are the same. -/
theorem screen_ext {f g : Screen} (h : ∀ px py, pixelOf f px py = pixelOf g px py) : f = g := by
  refine Vector.ext fun y hy => Vector.ext fun x hx => ?_
  simpa [pixelOf] using h ⟨x, hx⟩ ⟨y, hy⟩

theorem val_wrapColumn (x : Nat) : (wrapColumn x).val = x % 64 := rfl

theorem val_wrapRow (y : Nat) : (wrapRow y).val = y % 32 := rfl

/-! ### One row -/

/-- The bit of the last `n` columns of a row, the first at screen column `x`, that lands on column `px`. -/
def columnBit (row : Byte) : Nat → Nat → Column → Bool
  | 0, _, _ => false
  | n + 1, x, px => (row.getLsbD n && decide (wrapColumn x = px)) || columnBit row n (x + 1) px

/-- Where a bit of the last `n` columns lands. -/
theorem columnBit_iff (row : Byte) (n x : Nat) (px : Column) :
    columnBit row n x px = true ↔ ∃ c, c < n ∧ row.getLsbD (n - 1 - c) = true ∧ (x + c) % 64 = px.val := by
  induction n generalizing x with
  | zero => simp [columnBit]
  | succ n ih =>
    simp only [columnBit, Bool.or_eq_true, Bool.and_eq_true, decide_eq_true_eq, ih, Fin.ext_iff,
      val_wrapColumn]
    constructor
    · rintro (⟨h1, h2⟩ | ⟨c, h1, h2, h3⟩)
      · exact ⟨0, by omega, by simpa using h1, by simpa using h2⟩
      · exact ⟨c + 1, by omega, by rwa [show n + 1 - 1 - (c + 1) = n - 1 - c by omega], by rw [← h3]; congr 1; omega⟩
    · rintro ⟨c, h1, h2, h3⟩
      cases c with
      | zero => exact .inl ⟨by simpa using h2, by simpa using h3⟩
      | succ c =>
        exact .inr ⟨c, by omega, by rwa [show n - 1 - c = n + 1 - 1 - (c + 1) by omega], by rw [← h3]; congr 1; omega⟩

/-- No two of at most 64 consecutive columns land on the same screen column. -/
theorem columnBit_disjoint {row : Byte} {n x : Nat} {px : Column} (hn : n < 64) (h : wrapColumn x = px) :
    columnBit row n (x + 1) px = false := by
  rw [Bool.eq_false_iff, Ne, columnBit_iff]
  rintro ⟨c, h1, -, h3⟩
  subst h
  simp only [val_wrapColumn] at h3
  omega

/-- Drawing the last `n` columns of a row toggles the pixels of that screen row their 1 bits land on. -/
theorem pixelOf_drawColumns (row : Byte) {n : Nat} (y x : Nat) (acc : Screen × Bool) (hn : n ≤ 64)
    (px : Column) (py : Row) :
    pixelOf (drawColumns row y n x acc).1 px py =
      (pixelOf acc.1 px py ^^ (columnBit row n x px && decide (wrapRow y = py))) := by
  induction n generalizing x acc with
  | zero => simp [drawColumns, columnBit]
  | succ n ih =>
    rw [drawColumns, ih _ _ (by omega), columnBit]
    by_cases hb : row.getLsbD n = true
    · simp only [drawBit, hb, if_true, pixelOf_togglePixel, Bool.true_and]
      by_cases hx : wrapColumn x = px
      · simp [hx, columnBit_disjoint (row := row) (by omega : n < 64) hx]
      · simp [hx]
    · simp [drawBit, hb]

/-- The collision bit after the last `n` columns of a row: it was up before, or a 1 bit lands on a set pixel. -/
theorem hit_drawColumns (row : Byte) {n : Nat} (y x : Nat) (acc : Screen × Bool) (hn : n ≤ 64) :
    (drawColumns row y n x acc).2 = true ↔
      acc.2 = true ∨ ∃ px, columnBit row n x px = true ∧ pixelOf acc.1 px (wrapRow y) = true := by
  induction n generalizing x acc with
  | zero => simp [drawColumns, columnBit]
  | succ n ih =>
    rw [drawColumns, ih _ _ (by omega)]
    by_cases hb : row.getLsbD n = true
    · have hne : ∀ px, columnBit row n (x + 1) px = true → wrapColumn x ≠ px := fun px h he => by
        simp [columnBit_disjoint (row := row) (by omega : n < 64) he] at h
      simp only [drawBit, hb, if_true, Bool.or_eq_true, columnBit, Bool.true_and, decide_eq_true_eq,
        pixelOf_togglePixel, or_assoc]
      refine or_congr_right ⟨?_, ?_⟩
      · rintro (h | ⟨px, h1, h2⟩)
        · exact ⟨_, .inl rfl, h⟩
        · exact ⟨px, .inr h1, by simpa [hne px h1] using h2⟩
      · rintro ⟨px, h1 | h1, h2⟩
        · exact .inl (h1 ▸ h2)
        · exact .inr ⟨px, h1, by simpa [hne px h1] using h2⟩
    · simp [drawBit, columnBit, hb]

/-! ### All rows -/

/-- The bit of the rows, the first at screen row `y`, that lands on the pixel. -/
def rowsBit (x : Nat) : Nat → List Byte → Column → Row → Bool
  | _, [], _, _ => false
  | y, row :: rows, px, py =>
    (columnBit row 8 x px && decide (wrapRow y = py)) || rowsBit x (y + 1) rows px py

/-- Where a bit of the rows lands. -/
theorem rowsBit_iff (x y : Nat) (rows : List Byte) (px : Column) (py : Row) :
    rowsBit x y rows px py = true ↔
      ∃ r c, r < rows.length ∧ c < 8 ∧ (rows.getD r 0#8).getLsbD (7 - c) = true ∧
        (x + c) % 64 = px.val ∧ (y + r) % 32 = py.val := by
  induction rows generalizing y with
  | nil => simp [rowsBit]
  | cons row rows ih =>
    simp only [rowsBit, Bool.or_eq_true, Bool.and_eq_true, decide_eq_true_eq, ih, columnBit_iff, Fin.ext_iff,
      val_wrapRow]
    constructor
    · rintro (⟨⟨c, h1, h2, h3⟩, h4⟩ | ⟨r, c, h1, h2, h3, h4, h5⟩)
      · exact ⟨0, c, by simp, h1, by simpa using h2, h3, by simpa using h4⟩
      · exact ⟨r + 1, c, by simpa using h1, h2, by simpa using h3, h4, by rw [← h5]; congr 1; omega⟩
    · rintro ⟨r, c, h1, h2, h3, h4, h5⟩
      cases r with
      | zero => exact .inl ⟨⟨c, h2, by simpa using h3, h4⟩, by simpa using h5⟩
      | succ r =>
        exact .inr ⟨r, c, by simpa using h1, h2, by simpa using h3, h4, by rw [← h5]; congr 1; omega⟩

/-- No two of at most 32 consecutive rows land on the same screen row. -/
theorem rowsBit_disjoint {x y : Nat} {rows : List Byte} {px : Column} {py : Row} (hn : rows.length < 32)
    (h : wrapRow y = py) : rowsBit x (y + 1) rows px py = false := by
  rw [Bool.eq_false_iff, Ne, rowsBit_iff]
  rintro ⟨r, c, h1, -, -, -, h5⟩
  subst h
  simp only [val_wrapRow] at h5
  omega

/-- Drawing rows toggles the pixels their 1 bits land on. -/
theorem pixelOf_drawRows (x y : Nat) {rows : List Byte} (acc : Screen × Bool) (hn : rows.length ≤ 32)
    (px : Column) (py : Row) :
    pixelOf (drawRows x y rows acc).1 px py = (pixelOf acc.1 px py ^^ rowsBit x y rows px py) := by
  induction rows generalizing y acc with
  | nil => simp [drawRows, rowsBit]
  | cons row rows ih =>
    simp only [List.length_cons] at hn
    rw [drawRows, ih _ _ (by omega), pixelOf_drawColumns row y x acc (by decide), rowsBit]
    by_cases hy : wrapRow y = py
    · simp [hy, rowsBit_disjoint (x := x) (px := px) (by omega : rows.length < 32) hy]
    · simp [hy]

/-- The collision bit after drawing rows: it was up before, or a 1 bit lands on a set pixel. -/
theorem hit_drawRows (x y : Nat) {rows : List Byte} (acc : Screen × Bool) (hn : rows.length ≤ 32) :
    (drawRows x y rows acc).2 = true ↔
      acc.2 = true ∨ ∃ px py, rowsBit x y rows px py = true ∧ pixelOf acc.1 px py = true := by
  induction rows generalizing y acc with
  | nil => simp [drawRows, rowsBit]
  | cons row rows ih =>
    simp only [List.length_cons] at hn
    rw [drawRows, ih _ _ (by omega), hit_drawColumns row y x acc (by decide), or_assoc]
    refine or_congr_right ?_
    have hne : ∀ px py, rowsBit x (y + 1) rows px py = true → wrapRow y ≠ py := fun px py h he => by
      simp [rowsBit_disjoint (x := x) (px := px) (by omega : rows.length < 32) he] at h
    simp only [rowsBit, Bool.or_eq_true, Bool.and_eq_true, decide_eq_true_eq,
      pixelOf_drawColumns row y x acc (show Config.spriteWidth ≤ 64 by decide)]
    constructor
    · rintro (⟨px, h1, h2⟩ | ⟨px, py, h1, h2⟩)
      · exact ⟨px, _, .inl ⟨h1, rfl⟩, h2⟩
      · exact ⟨px, py, .inr h1, by simpa [hne px py h1] using h2⟩
    · rintro ⟨px, py, ⟨h1, h3⟩ | h1, h2⟩
      · exact .inl ⟨px, h1, h3 ▸ h2⟩
      · exact .inr ⟨px, py, h1, by simpa [hne px py h1] using h2⟩

/-! ### The whole operation -/

/-- `composite` toggles exactly the pixels the sprite covers (R171 points 1 to 3). -/
theorem pixelOf_composite (fb : Screen) (x0 y0 : Byte) {rows : List Byte} (hn : rows.length ≤ 32)
    (px : Column) (py : Row) :
    (SpriteCovers rows x0 y0 px py → pixelOf (composite fb x0 y0 rows).1 px py = !pixelOf fb px py) ∧
    (¬ SpriteCovers rows x0 y0 px py → pixelOf (composite fb x0 y0 rows).1 px py = pixelOf fb px py) := by
  rw [composite, pixelOf_drawRows _ _ _ hn]
  simp only [SpriteCovers, ← rowsBit_iff]
  cases rowsBit x0.toNat y0.toNat rows px py <;> simp

/-- `hit` is up iff some covered pixel was set: it is then cleared (R171 points 3 and 4). -/
theorem hit_composite (fb : Screen) (x0 y0 : Byte) {rows : List Byte} (hn : rows.length ≤ 32) :
    (composite fb x0 y0 rows).2 = true ↔
      ∃ px py, SpriteCovers rows x0 y0 px py ∧ pixelOf fb px py = true := by
  rw [composite, hit_drawRows _ _ _ hn]
  simp only [SpriteCovers, ← rowsBit_iff, Bool.false_eq_true, false_or]

end Sys2Proof.Machine
end

