-- ==== Sys2Proof/Laws/Step.lean ====
section
/-! SUPPORT. What a step, the fetch and the host's placing of a word can do, said once. -/

namespace Sys2Proof.Machine

/-- A fault entry records the cause and changes nothing else (R205). -/
theorem takeFault_eq (c : Cause) (s : State) : takeFault c s = .next (s.setStatus (.faulted c)) := rfl

theorem finish_of_running {s : State} (h : s.status = .running) : s.finish = s.tick := by
  simp [State.finish, h]

theorem finish_of_faulted {s : State} {c : Cause} (h : s.status = .faulted c) : s.finish = s := by
  simp [State.finish, h]

/-- The fetch inside the memory: the two bytes at `PC`, the high one first (R61). -/
theorem fetchWord_ok {s : State} (h : s.pc.toNat + 2 ≤ 4096) :
    fetchWord s = .ok (wordOfBytes (s.readByte s.pc.toNat) (s.readByte (s.pc.toNat + 1))) := by
  rw [fetchWord, checkRange_ok (.inr h)]

/-- The fetch that reaches address 4096 (R61). -/
theorem fetchWord_error {s : State} (h : 4096 ≤ s.pc.toNat + 1) :
    fetchWord s = .error (.bounds .fetch (max 4096 s.pc.toNat)) := by
  rw [fetchWord, checkRange_error (by decide) (show 4096 < s.pc.toNat + 2 by omega)]

/-- What the fetch reads depends on `PC` and the memory alone. -/
theorem fetchWord_congr {s t : State} (hp : t.pc = s.pc) (hm : t.mem = s.mem) : fetchWord t = fetchWord s := by
  simp [fetchWord, State.readByte, hp, hm]

theorem fetchInstr_congr {s t : State} (hp : t.pc = s.pc) (hm : t.mem = s.mem) : fetchInstr t = fetchInstr s := by
  simp [fetchInstr, fetchWord_congr hp hm]

/-- What a step that answers a next state can have done: nothing, on a faulted machine; a fault entry from the
fetch or the decode; or the instruction fetched, and what follows it. -/
theorem step_cases {s t : State} (h : step s = .next t) :
    (∃ c, s.status = .faulted c ∧ t = s) ∨
    (s.status = .running ∧ ∃ c, fetchInstr s = .error c ∧ t = s.setStatus (.faulted c)) ∨
    (s.status = .running ∧ ∃ i u, fetchInstr s = .ok i ∧ exec i s = .next u ∧ t = u.finish) := by
  unfold step at h
  split at h
  · next c hc => exact .inl ⟨c, hc, by simpa using h.symm⟩
  · next hr =>
    split at h
    · next c hc => exact .inr (.inl ⟨hr, c, hc, by simpa [takeFault] using h.symm⟩)
    · next i hi =>
      split at h
      · next u hu => exact .inr (.inr ⟨hr, i, u, hi, hu, by simpa using h.symm⟩)
      · simp at h
      · simp at h

/-- A running machine whose fetch gives an instruction runs it and then finishes the step. -/
theorem step_of_fetch {s u : State} {i : Instr} (hr : s.status = .running) (hf : fetchInstr s = .ok i)
    (he : exec i s = .next u) : step s = .next u.finish := by
  simp [step, hr, hf, he]

/-- A word stored at `PC` is the word fetched there (R43, R61). -/
theorem fetchWord_storeWord {s : State} (w : Word) (hm : Memory.wf s.mem = true) (h : s.pc.toNat + 2 ≤ 4096) :
    fetchWord (s.storeWord s.pc.toNat w) = .ok w := by
  have hw := Memory.read_writeBytes hm (base := s.pc.toNat)
    (vs := [w.extractLsb' 8 8, w.extractLsb' 0 8]) (.inr h)
  rw [fetchWord_ok (by simpa [State.storeWord] using h)]
  simp only [State.storeWord, State.setMem_pc, State.readByte_setMem, hw]
  simp only [Nat.le_refl, Nat.le_add_right, if_true, Nat.sub_self, Nat.add_sub_cancel_left,
    List.getD_cons_zero, List.getD_cons_succ, wordOfBytes_bytes]

end Sys2Proof.Machine
end

