-- ==== Sys2Proof/Tests/Slice0.lean ====
section
/-! SUPPORT. The model's own tests: ill-formed terms refused, one written-out word per row of the opcode map and the
illegal neighbours (95_test_vectors.md section 3), one or two single steps per instruction with the results of
95_test_vectors.md sections 1 and 2 (its vector id in each comment), and a witness for the hypotheses of every
statement of Certificates/Slice0/Obligations.lean. -/

namespace Sys2Proof.Tests

open Sys2Proof.Machine

/-! ### Well-formedness -/

theorem test_sys_0E0_is_ill_formed : (Instr.sys 0x0E0#12).wellFormed = false := by decide
theorem test_sys_0EE_is_ill_formed : (Instr.sys 0x0EE#12).wellFormed = false := by decide
theorem test_sys_123_is_well_formed : (Instr.sys 0x123#12).wellFormed = true := by decide

/-! ### Decoding: the words of 95_test_vectors.md section 3, written out -/

theorem test_decode_sys : decodeWord 0x0123#16 = .ok (.sys 0x123#12) := by decide
theorem test_decode_cls : decodeWord 0x00E0#16 = .ok .cls := by decide
theorem test_decode_ret : decodeWord 0x00EE#16 = .ok .ret := by decide
theorem test_decode_jp : decodeWord 0x1234#16 = .ok (.jp 0x234#12) := by decide
theorem test_decode_call : decodeWord 0x2345#16 = .ok (.call 0x345#12) := by decide
theorem test_decode_seImm : decodeWord 0x3456#16 = .ok (.seImm 4 0x56#8) := by decide
theorem test_decode_sneImm : decodeWord 0x4567#16 = .ok (.sneImm 5 0x67#8) := by decide
theorem test_decode_seReg : decodeWord 0x5670#16 = .ok (.seReg 6 7) := by decide
theorem test_decode_ldImm : decodeWord 0x6789#16 = .ok (.ldImm 7 0x89#8) := by decide
theorem test_decode_addImm : decodeWord 0x789A#16 = .ok (.addImm 8 0x9A#8) := by decide
theorem test_decode_ldReg : decodeWord 0x8230#16 = .ok (.ldReg 2 3) := by decide
theorem test_decode_orReg : decodeWord 0x8231#16 = .ok (.orReg 2 3) := by decide
theorem test_decode_andReg : decodeWord 0x8232#16 = .ok (.andReg 2 3) := by decide
theorem test_decode_xorReg : decodeWord 0x8233#16 = .ok (.xorReg 2 3) := by decide
theorem test_decode_addReg : decodeWord 0x8234#16 = .ok (.addReg 2 3) := by decide
theorem test_decode_subReg : decodeWord 0x8235#16 = .ok (.subReg 2 3) := by decide
theorem test_decode_shr : decodeWord 0x8236#16 = .ok (.shr 2 3) := by decide
theorem test_decode_subnReg : decodeWord 0x8237#16 = .ok (.subnReg 2 3) := by decide
theorem test_decode_shl : decodeWord 0x823E#16 = .ok (.shl 2 3) := by decide
theorem test_decode_sneReg : decodeWord 0x9230#16 = .ok (.sneReg 2 3) := by decide
theorem test_decode_ldI : decodeWord 0xA123#16 = .ok (.ldI 0x123#12) := by decide
theorem test_decode_jpV0 : decodeWord 0xB123#16 = .ok (.jpV0 0x123#12) := by decide
theorem test_decode_rnd : decodeWord 0xC4FF#16 = .ok (.rnd 4 0xFF#8) := by decide
theorem test_decode_drw : decodeWord 0xD125#16 = .ok (.drw 1 2 5) := by decide
theorem test_decode_skp : decodeWord 0xE19E#16 = .ok (.skp 1) := by decide
theorem test_decode_sknp : decodeWord 0xE1A1#16 = .ok (.sknp 1) := by decide
theorem test_decode_ldVxDT : decodeWord 0xF107#16 = .ok (.ldVxDT 1) := by decide
theorem test_decode_ldVxK : decodeWord 0xF10A#16 = .ok (.ldVxK 1) := by decide
theorem test_decode_ldDTVx : decodeWord 0xF115#16 = .ok (.ldDTVx 1) := by decide
theorem test_decode_ldSTVx : decodeWord 0xF118#16 = .ok (.ldSTVx 1) := by decide
theorem test_decode_addI : decodeWord 0xF11E#16 = .ok (.addI 1) := by decide
theorem test_decode_ldF : decodeWord 0xF129#16 = .ok (.ldF 1) := by decide
theorem test_decode_ldB : decodeWord 0xF133#16 = .ok (.ldB 1) := by decide
theorem test_decode_storeRegs : decodeWord 0xF155#16 = .ok (.storeRegs 1) := by decide
theorem test_decode_loadRegs : decodeWord 0xF165#16 = .ok (.loadRegs 1) := by decide

/-- The fields of the word 0xD7A5: each nibble differs, so swapped fields would show. -/
theorem test_decode_fields : decodeWord 0xD7A5#16 = .ok (.drw 7 10 5) := by decide

/-- Bytes in memory order, the high byte first: 12 34 is JP 0x234, and the bytes after it are left. -/
theorem test_decode_byte_order : decode [0x12#8, 0x34#8, 0x56#8] = .ok (.jp 0x234#12, [0x56#8]) := by decide
theorem test_decode_one_byte : decode [0x12#8] = .error .truncated := by decide

/-- Family 0: the neighbours of CLS and RET are SYS, the named slot that faults. -/
theorem test_decode_family0_neighbours :
    [0x00E1#16, 0x00EF#16, 0x0000#16, 0x01E0#16].map decodeWord =
      [.ok (.sys 0x0E1#12), .ok (.sys 0x0EF#12), .ok (.sys 0x000#12), .ok (.sys 0x1E0#12)] := by decide
theorem test_decode_family5_low_nibble : decodeWord 0x5121#16 = .error (.family5 0x5121#16) := by decide
theorem test_decode_family8_gaps :
    [0x8128#16, 0x812D#16, 0x812F#16].map decodeWord =
      [.error (.family8 0x8128#16), .error (.family8 0x812D#16), .error (.family8 0x812F#16)] := by decide
theorem test_decode_family9_low_nibble : decodeWord 0x912F#16 = .error (.family9 0x912F#16) := by decide
theorem test_decode_familyE_gaps :
    [0xE19F#16, 0xE1A0#16, 0xE400#16].map decodeWord =
      [.error (.familyE 0xE19F#16), .error (.familyE 0xE1A0#16), .error (.familyE 0xE400#16)] := by decide
theorem test_decode_familyF_gaps :
    [0xF108#16, 0xF166#16, 0xF175#16, 0xF185#16, 0xF200#16].map decodeWord =
      [.error (.familyF 0xF108#16), .error (.familyF 0xF166#16), .error (.familyF 0xF175#16),
        .error (.familyF 0xF185#16), .error (.familyF 0xF200#16)] := by decide

/-! ### States for the single-step tests -/

/-- The start state of the vectors: reset, with `redraw` false so that setting it shows. -/
def start : State := State.reset.clearRedraw

/-- Registers set one after another. -/
def withRegs (rs : List (Reg × Byte)) (s : State) : State := rs.foldl (fun t p => t.setReg p.1 p.2) s

/-- Bytes put into memory from `a` upward. -/
def withBytes (a : Nat) (bytes : List Byte) (s : State) : State := s.setMem (Memory.writeBytes s.mem a bytes)

/-- Pixels set on the screen. -/
def withPixels (ps : List (Column × Row)) (s : State) : State :=
  { s with fb := ps.foldl (fun fb p => togglePixel fb p.1 p.2) s.fb }

/-- What a reading of the state gives after one step that runs the word `w`; none where the step stops. -/
def after {α : Type} (w : Nat) (s : State) (reading : State → α) : Option α :=
  match step (s.withFetchWord 16 w) with
  | .next t => some (reading t)
  | .fault _ => none
  | .refused _ => none

/-- The pixels that are set, row by row. -/
def lit (s : State) : List (Column × Row) :=
  (List.finRange 32).flatMap fun y => ((List.finRange 64).filter fun x => s.pixel x y).map fun x => (x, y)

/-! ### Control (95_test_vectors.md 2.1) -/

/-- CT20. -/
theorem test_sys : after 0x0123 start (fun t => (t.status, t.pc)) =
    some (.faulted (.decodeFault 0x0123#16), 0x200#16) := by decide
/-- CT1. -/
theorem test_ret : after 0x00EE { start with sp := 1, stack := start.stack.set 0 0x0206#16, pc := 0x212#16 }
    (fun t => (t.pc, t.sp)) = some (0x206#16, 0) := by decide
/-- CT2. -/
theorem test_ret_empty : after 0x00EE start (fun t => (t.status, t.pc)) =
    some (.faulted (.bounds .stackUnderflow 0), 0x200#16) := by decide
/-- CT3. -/
theorem test_jp : after 0x1ABC start (fun t => t.pc) = some 0xABC#16 := by decide
/-- CT7: the sixteenth call fills the last slot. -/
theorem test_call_fills_stack : after 0x2300 { start with sp := 15 } (fun t => (t.pc, t.sp, t.stack[15])) =
    some (0x300#16, 16, 0x0202#16) := by decide
/-- CT8: the seventeenth faults. -/
theorem test_call_overflow : after 0x2300 { start with sp := 16 } (fun t => (t.status, t.pc, t.sp)) =
    some (.faulted (.bounds .stackOverflow 16), 0x200#16, 16) := by decide
/-- CT9, CT10. -/
theorem test_seImm : [0x2A#8, 0x2B#8].map (fun v => after 0x332A (start.setReg 3 v) (fun t => t.pc)) =
    [some 0x204#16, some 0x202#16] := by decide
/-- CT11, CT12. -/
theorem test_sneImm : [0x2A#8, 0x00#8].map (fun v => after 0x432A (start.setReg 3 v) (fun t => t.pc)) =
    [some 0x202#16, some 0x204#16] := by decide
/-- CT13, CT14. -/
theorem test_seReg : [7#8, 8#8].map (fun v => after 0x5120 (withRegs [(1, 7#8), (2, v)] start) (fun t => t.pc)) =
    [some 0x204#16, some 0x202#16] := by decide
/-- CT17, CT16. -/
theorem test_sneReg : [7#8, 8#8].map (fun v => after 0x9120 (withRegs [(1, 7#8), (2, v)] start) (fun t => t.pc)) =
    [some 0x202#16, some 0x204#16] := by decide
/-- CT19: the largest target, not masked. -/
theorem test_jpV0 : after 0xBFFF (start.setReg 0 0xFF#8) (fun t => t.pc) = some 0x10FE#16 := by decide
/-- CT25: a skip at the last fetchable address succeeds. -/
theorem test_skip_at_top : after 0x3000 (start.setPc 0xFFE#16) (fun t => (t.pc, t.status)) =
    some (0x1002#16, .running) := by decide
/-- CT26: an odd `PC` is legal. -/
theorem test_odd_pc : after 0x6A11 (start.setPc 0x201#16) (fun t => (t.reg 10, t.pc)) =
    some (0x11#8, 0x203#16) := by decide
/-- CT23. -/
theorem test_fetch_at_4095 : step (start.setPc 0xFFF#16) =
    .next ((start.setPc 0xFFF#16).setStatus (.faulted (.bounds .fetch 0x1000))) := by rfl

/-! ### Immediates (2.2) -/

/-- IM1. -/
theorem test_ldImm : after 0x6A2F start (fun t => (t.reg 10, t.pc)) = some (0x2F#8, 0x202#16) := by decide
/-- IM2: no carry flag. -/
theorem test_addImm : after 0x7105 (start.setReg 1 0xFE#8) (fun t => (t.reg 1, t.reg VF)) =
    some (0x03#8, 0#8) := by decide
/-- IM3: VF as an ordinary register. -/
theorem test_addImm_vf : after 0x7F01 (start.setReg VF 0xFF#8) (fun t => t.reg VF) = some 0#8 := by decide

/-! ### ALU (2.3) -/

/-- AL1. -/
theorem test_ldReg : after 0x8120 (start.setReg 2 0x77#8) (fun t => (t.reg 1, t.pc)) =
    some (0x77#8, 0x202#16) := by decide
/-- AL2. -/
theorem test_orReg : after 0x8121 (withRegs [(1, 0xF0#8), (2, 0x0F#8), (VF, 1#8)] start)
    (fun t => (t.reg 1, t.reg VF)) = some (0xFF#8, 1#8) := by decide
/-- AL3. -/
theorem test_andReg : after 0x8122 (withRegs [(1, 0xF3#8), (2, 0x3F#8), (VF, 1#8)] start)
    (fun t => (t.reg 1, t.reg VF)) = some (0x33#8, 1#8) := by decide
/-- AL4. -/
theorem test_xorReg : after 0x8123 (withRegs [(1, 0xFF#8), (2, 0x0F#8), (VF, 1#8)] start)
    (fun t => (t.reg 1, t.reg VF)) = some (0xF0#8, 1#8) := by decide
/-- S2, the source's first example. -/
theorem test_addReg : after 0x8014 (withRegs [(0, 0xFF#8), (1, 1#8)] start) (fun t => (t.reg 0, t.reg VF)) =
    some (0#8, 1#8) := by decide
/-- AL8: with VF the destination the flag stays and the sum is lost. -/
theorem test_addReg_vf : after 0x8F14 (withRegs [(VF, 0x10#8), (1, 0x20#8)] start) (fun t => t.reg VF) =
    some 0#8 := by decide
/-- S3, the source's borrow example. -/
theorem test_subReg : after 0x8015 (withRegs [(0, 3#8), (1, 5#8), (VF, 1#8)] start)
    (fun t => (t.reg 0, t.reg VF)) = some (0xFE#8, 0#8) := by decide
/-- AL11: equal operands, no borrow. -/
theorem test_subReg_equal : after 0x8015 (withRegs [(0, 7#8), (1, 7#8)] start)
    (fun t => (t.reg 0, t.reg VF)) = some (0#8, 1#8) := by decide
/-- AL16: `V2` is not read. -/
theorem test_shr : after 0x8126 (withRegs [(1, 0x80#8), (2, 0xFF#8), (VF, 1#8)] start)
    (fun t => (t.reg 1, t.reg 2, t.reg VF)) = some (0x40#8, 0xFF#8, 0#8) := by decide
/-- AL17: with VF the destination the flag stays. -/
theorem test_shr_vf : after 0x8F06 (start.setReg VF 2#8) (fun t => t.reg VF) = some 0#8 := by decide
/-- AL19. -/
theorem test_subnReg : after 0x8017 (withRegs [(0, 3#8), (1, 5#8)] start) (fun t => (t.reg 0, t.reg VF)) =
    some (2#8, 1#8) := by decide
/-- AL20. -/
theorem test_subnReg_borrow : after 0x8017 (withRegs [(0, 5#8), (1, 3#8), (VF, 1#8)] start)
    (fun t => (t.reg 0, t.reg VF)) = some (0xFE#8, 0#8) := by decide
/-- AL22. -/
theorem test_shl : after 0x810E (start.setReg 1 0x81#8) (fun t => (t.reg 1, t.reg VF)) =
    some (2#8, 1#8) := by decide
/-- AL24. -/
theorem test_shl_vf : after 0x8F0E (start.setReg VF 0x80#8) (fun t => t.reg VF) = some 1#8 := by decide

/-! ### Index (2.4) -/

/-- IX2. -/
theorem test_ldI : after 0xAFFF start (fun t => (t.index, t.pc)) = some (0x0FFF#16, 0x202#16) := by decide
/-- IX5: 0xFFF does not exceed. -/
theorem test_addI_no_overflow : after 0xF21E (withRegs [(2, 1#8), (VF, 1#8)] (start.setIndex 0x0FFE#16))
    (fun t => (t.index, t.reg VF)) = some (0x0FFF#16, 0#8) := by decide
/-- IX8: 16-bit wrap, the flag from the unreduced sum. -/
theorem test_addI_wraps : after 0xF21E ((start.setIndex 0xFFFF#16).setReg 2 1#8)
    (fun t => (t.index, t.reg VF)) = some (0#16, 1#8) := by decide
/-- IX12. -/
theorem test_ldF : after 0xF529 (start.setReg 5 0x0F#8) (fun t => t.index) = some 0x009B#16 := by decide
/-- IX13. -/
theorem test_ldF_out_of_range : after 0xF529 (start.setReg 5 0x10#8) (fun t => (t.status, t.pc)) =
    some (.faulted (.bounds .glyphIndex 16), 0x200#16) := by decide

/-! ### Random (2.5): the draw stays free -/

/-- RN5. -/
theorem test_rnd : after 0xC30F start (fun t => (t.reg 3, t.draws)) =
    some (Config.draw 0 &&& 0x0F#8, 1) := by rfl

/-! ### Display (2.6) -/

/-- DW1. -/
theorem test_cls : after 0x00E0 (withPixels [(0, 0), (5, 7), (63, 31)] start) (fun t => (lit t, t.redraw)) =
    some ([], true) := by decide +kernel
/-- DW3: columns 4 to 7 of the sprite wrap onto the same row. -/
theorem test_drw_wraps : after 0xD011 (withBytes 0x300 [0xFF#8] (withRegs [(0, 60#8)] (start.setIndex 0x300#16)))
    (fun t => (lit t, t.reg VF, t.redraw)) =
    some ([(0, 0), (1, 0), (2, 0), (3, 0), (60, 0), (61, 0), (62, 0), (63, 0)], 0#8, true) := by decide +kernel
/-- DW5: one of two pixels collides. -/
theorem test_drw_collides : after 0xD011 (withPixels [(11, 5)] (withBytes 0x300 [0xC0#8]
    (withRegs [(0, 10#8), (1, 5#8)] (start.setIndex 0x300#16)))) (fun t => (lit t, t.reg VF)) =
    some ([(10, 5)], 1#8) := by decide +kernel

/-! ### Keys (2.7) -/

/-- KY1, KY5. -/
theorem test_skp : [(0x0A#8, true), (0x10#8, true)].map (fun p =>
    after 0xE49E ((start.setReg 4 p.1).setKey 10 p.2) (fun t => (t.pc, t.status))) =
    [some (0x204#16, .running), some (0x200#16, .faulted (.bounds .keyIndex 16))] := by decide
/-- KY3, KY4. -/
theorem test_sknp : [false, true].map (fun held =>
    after 0xE4A1 ((start.setReg 4 0x0A#8).setKey 10 held) (fun t => t.pc)) =
    [some 0x204#16, some 0x202#16] := by decide
/-- KY7: the wait holds `PC` and ticks. -/
theorem test_ldVxK_waits : after 0xF30A { start.setReg 3 0x55#8 with dt := 3#8, st := 1#8 }
    (fun t => (t.pc, t.reg 3, t.dt, t.st)) = some (0x200#16, 0x55#8, 2#8, 0#8) := by decide
/-- KY8: the lowest key. -/
theorem test_ldVxK : after 0xF30A ((start.setKey 7 true).setKey 9 true) (fun t => (t.reg 3, t.pc)) =
    some (7#8, 0x202#16) := by decide

/-! ### Timers, BCD, bulk transfer (2.8) -/

/-- TM1: read before the tick. -/
theorem test_ldVxDT : after 0xF207 (start.setDT 5#8) (fun t => (t.reg 2, t.dt)) = some (5#8, 4#8) := by decide
/-- TM3: set, then tick. -/
theorem test_ldDTVx : after 0xF215 (start.setReg 2 0x0A#8) (fun t => t.dt) = some 9#8 := by decide
/-- TM6. -/
theorem test_ldSTVx : after 0xF218 (start.setReg 2 3#8) (fun t => t.st) = some 2#8 := by decide
/-- R192, R222: a sound timer set to 1 is never audible, one set to 2 is. -/
theorem test_sound_line : [1#8, 2#8].map (fun v => after 0xF218 (start.setReg 2 v) State.soundLine) =
    [some false, some true] := by decide
/-- TM12: the last legal place. -/
theorem test_ldB : after 0xF033 ((start.setReg 0 123#8).setIndex 0xFFD#16)
    (fun t => [0xFFD, 0xFFE, 0xFFF].map t.readByte) = some [1#8, 2#8, 3#8] := by decide
/-- TM13: nothing is written. -/
theorem test_ldB_out_of_range : after 0xF033 ((start.setReg 0 123#8).setIndex 0xFFE#16)
    (fun t => (t.status, t.readByte 0xFFE)) = some (.faulted (.bounds .memWrite 0x1000), 0#8) := by decide
/-- TM14. -/
theorem test_storeRegs : after 0xF255 (withRegs [(0, 1#8), (1, 2#8), (2, 3#8), (3, 4#8)] (start.setIndex 0x400#16))
    (fun t => ([0x400, 0x401, 0x402, 0x403].map t.readByte, t.index)) =
    some ([1#8, 2#8, 3#8, 0#8], 0x400#16) := by decide
/-- TM17: no partial store. -/
theorem test_storeRegs_out_of_range : after 0xF255 (withRegs [(0, 1#8), (1, 2#8)] (start.setIndex 0xFFE#16))
    (fun t => (t.status, t.readByte 0xFFE)) = some (.faulted (.bounds .memWrite 0x1000), 0#8) := by decide
/-- TM19. -/
theorem test_loadRegs : after 0xF265 (withBytes 0x300 [2#8, 5#8, 4#8, 9#8] (start.setIndex 0x300#16))
    (fun t => ([0, 1, 2, 3].map t.reg, t.index)) = some ([2#8, 5#8, 4#8, 0#8], 0x300#16) := by decide
/-- TM21: the font is where reset puts it. -/
theorem test_loadRegs_font : after 0xFF65 (start.setIndex 0x050#16) (fun t => t.regs.toList) =
    some [0xF0#8, 0x90#8, 0x90#8, 0x90#8, 0xF0#8, 0x20#8, 0x60#8, 0x20#8, 0x20#8, 0x70#8, 0xF0#8, 0x10#8, 0xF0#8,
      0x80#8, 0xF0#8, 0xF0#8] := by decide

/-- R204: the labels of the fault record, one of each category. -/
theorem test_cause_codes :
    [Cause.loadError 3585, .decodeFault 0x5121#16, .bounds .fetch 0x1000, .bounds .glyphIndex 16].map causeCode =
      [(1, 0, 3585), (2, 0, 0x5121), (3, 1, 0x1000), (3, 7, 16)] := by decide

/-! ### Reset and load (P7, S8, rule R231) -/

/-- P7 (d): a machine that was only reset faults at once. -/
theorem test_reset_only : step State.reset =
    .next (State.reset.setStatus (.faulted (.decodeFault 0x0000#16))) := by rfl
/-- S8 in small: the image lies at 0x200 and its end is followed by zeros. -/
theorem test_load : [0x200, 0x201, 0x202, 0x203].map (start.loadProgram [0x60#8, 0xFE#8, 0xA3#8]).readByte =
    [0x60#8, 0xFE#8, 0xA3#8, 0#8] := by decide

/-! ### Witnesses: for each statement with hypotheses, a state and operands that meet them, clause by clause -/

/-- The start state with the word `w` where the next step fetches. -/
def ready (w : Nat) : State := start.withFetchWord 16 w

theorem test_witness_EncodedInstrDecodesBack :
    (Instr.sys 0xFFF#12).wellFormed = true ∧ (Instr.drw 15 15 15).wellFormed = true := by decide

theorem test_witness_DecodedInstrEncodesBack : decodeWord 0x823E#16 = .ok (.shl 2 3) := by decide

theorem test_witness_DecodeFollowsOpcodeMap :
    (∀ nnn, Instr.shl 2 3 ≠ .sys nnn) ∧ inOpcodeRow 0x823E#16 (.shl 2 3) = true ∧
      inOpcodeRow 0x0123#16 (.sys 0#12) = true := ⟨nofun, by decide, by decide⟩

theorem test_witness_IllegalWordsAreThoseListed :
    [0x0123#16, 0x5121#16, 0x8128#16, 0x912F#16, 0xE19F#16, 0xF166#16].map illegalWord =
      [true, true, true, true, true, true] ∧
    [0x00E0#16, 0x5120#16, 0x812E#16, 0x9120#16, 0xE19E#16, 0xF165#16].map illegalWord =
      [false, false, false, false, false, false] := by decide

/-- A completing and a faulting instruction, the second at the last fetchable address. -/
theorem test_witness_StepRunsDecodedInstr :
    ((ready 0x6A11).status = .running ∧ (ready 0x6A11).pc.toNat + 1 < 4096 ∧
      decode [(ready 0x6A11).readByte 0x200, (ready 0x6A11).readByte 0x201] = .ok (.ldImm 10 0x11#8, [])) ∧
    (∃ s : State, s.status = .running ∧ s.pc.toNat + 1 = 4095 ∧
      decode [s.readByte s.pc.toNat, s.readByte (s.pc.toNat + 1)] = .ok (.ret, []) ∧
      ∃ t c, exec .ret s = .next t ∧ t.status = .faulted c) :=
  ⟨by decide, (start.setPc 0xFFE#16).withFetchWord 16 0x00EE, by decide, by decide, by decide, _, _, rfl, rfl⟩

theorem test_witness_FetchIsBigEndianAndBounded :
    (start.setPc 0xFFE#16).pc.toNat + 1 < 4096 ∧
    (start.setPc 0x1000#16).status = .running ∧ 4096 ≤ (start.setPc 0x1000#16).pc.toNat ∧
    (start.setPc 0xFFF#16).status = .running ∧ (start.setPc 0xFFF#16).pc.toNat = 4095 := by decide

theorem test_witness_IllegalWordFaults :
    (ready 0x8128).status = .running ∧ fetchWord (ready 0x8128) = .ok 0x8128#16 ∧ illegalWord 0x8128#16 = true := by
  decide

theorem test_witness_FaultedMachineDoesNothing :
    (start.faultedBy (.decodeFault 0x8128#16)).status = .faulted (.decodeFault 0x8128#16) := rfl

theorem test_witness_EveryStepAnswersAndFaultsPrecisely :
    ∃ t c, step (ready 0x00EE) = .next t ∧ (ready 0x00EE).status = .running ∧ t.status = .faulted c :=
  ⟨_, _, rfl, rfl, rfl⟩

theorem test_witness_TimersTickOncePerStep :
    (∃ u, (ready 0x00E0).status = .running ∧ fetchInstr (ready 0x00E0) = .ok .cls ∧
      exec .cls (ready 0x00E0) = .next u ∧ u.status = .running) ∧
    ∃ t c, step (ready 0x00EE) = .next t ∧ t.status = .faulted c :=
  ⟨⟨_, rfl, by decide, rfl, rfl⟩, _, _, rfl, rfl⟩

theorem test_witness_RetPopsReturnAddress :
    ({ start with sp := 1 } : State).sp.val ≠ 0 ∧ ({ start with sp := 16 } : State).sp.val ≠ 0 ∧ start.sp.val = 0 := by
  decide

theorem test_witness_CallPushesNextAddress :
    ({ start with sp := 15 } : State).sp.val < 16 ∧ ({ start with sp := 16 } : State).sp.val = 16 := by decide

theorem test_witness_CallThenReturnResumes :
    ∃ s t u : State, s.sp.val < 16 ∧ exec (.call 0x300#12) s = .next t ∧ u.sp = t.sp ∧ u.stack = t.stack :=
  ⟨{ start with sp := 15 }, _, _, by decide, rfl, rfl, rfl⟩

theorem test_witness_SkipsCompareRegisters : (1#4 : BitVec 4) ≠ 0#4 := by decide

/-- The complement of 0 is 0, of 0x20 is 0xE0. -/
theorem test_witness_AddImmWrapsWithoutFlag :
    (0#8 : Byte).toNat = (256 - (0#8 : Byte).toNat) % 256 ∧
    (0xE0#8 : Byte).toNat = (256 - (0x20#8 : Byte).toNat) % 256 := by decide

theorem test_witness_flag_results_with_destination_not_vf : (14 : Reg) ≠ VF := by decide

theorem test_witness_LdFPointsAtGlyph :
    ((start.setReg 5 15#8).reg 5).toNat ≤ 15 ∧ 15 < ((start.setReg 5 16#8).reg 5).toNat := by decide

/-- A one-row sprite FF at the last byte of memory, drawn at (60, 0). -/
def spriteState : State := withBytes 0xFFF [0xFF#8] (withRegs [(0, 60#8)] (start.setIndex 0xFFF#16))

theorem test_witness_DrwTogglesCoveredPixels :
    spriteState.index.toNat + (1 : Fin 16).val ≤ 4096 ∧
    (SpriteCovers (spriteState.spriteRows 1) (spriteState.reg 0) (spriteState.reg 1) 3 0 ∧
      (withPixels [(3, 0)] spriteState).pixel 3 0 = true) ∧
    ¬ SpriteCovers (spriteState.spriteRows 1) (spriteState.reg 0) (spriteState.reg 1) 4 0 ∧
    ∀ px py, SpriteCovers (spriteState.spriteRows 1) (spriteState.reg 0) (spriteState.reg 1) px py →
      spriteState.pixel px py = false := by
  refine ⟨by decide, ⟨⟨0, 7, by decide, by decide, by decide, by decide, by decide⟩, by decide⟩, ?_, ?_⟩
  · rintro ⟨r, c, -, hc, -, hx, -⟩
    have : (60 + c) % 64 = 4 := hx
    omega
  · have h : ∀ px py, spriteState.pixel px py = false := by decide +kernel
    exact fun px py _ => h px py

theorem test_witness_DrwFrameAndFault :
    (0 : Fin 16).val = 0 ∧ spriteState.index.toNat + (1 : Fin 16).val ≤ 4096 ∧
    (2 : Fin 16).val ≠ 0 ∧ 4096 ≤ spriteState.index.toNat + (2 : Fin 16).val - 1 := by decide

theorem test_witness_DrwTwiceRestoresScreen :
    (0 : Reg) ≠ VF ∧ (1 : Reg) ≠ VF ∧ spriteState.index.toNat + (1 : Fin 16).val ≤ 4096 ∧
    (∃ t, exec (.drw 0 1 1) spriteState = .next t) ∧ ∀ px py, spriteState.pixel px py = false :=
  ⟨by decide, by decide, by decide, ⟨_, rfl⟩, by decide +kernel⟩

theorem test_witness_KeySkipsTestLatch :
    ((start.setReg 4 15#8).reg 4).toNat = (15 : KeyCode).val ∧ 15 < ((start.setReg 4 16#8).reg 4).toNat := by decide

theorem test_witness_LdVxKTakesLowestKey :
    (((start.setKey 7 true).setKey 9 true).key 7 = true ∧
      ∀ j, j < 7 → ((start.setKey 7 true).setKey 9 true).key j = false) ∧
    ∀ k, start.key k = false := by decide

theorem test_witness_KeyWaitHoldsAndTicks :
    (ready 0xF30A).status = .running ∧ fetchInstr (ready 0xF30A) = .ok (.ldVxK 3) ∧
    (∀ k, (ready 0xF30A).key k = false) ∧
    fetchInstr ((ready 0xF30A).setKey 15 true) = .ok (.ldVxK 3) ∧
    ∃ k, ((ready 0xF30A).setKey 15 true).key k = true := by decide

theorem test_witness_LdVxDTReadsTimer :
    (ready 0xF207).status = .running ∧ fetchInstr ((ready 0xF207).setDT 1#8) = .ok (.ldVxDT 2) ∧
    ((ready 0xF207).setDT 1#8).dt.toNat ≠ 0 ∧ fetchInstr (ready 0xF207) = .ok (.ldVxDT 2) ∧
    (ready 0xF207).dt.toNat = 0 := by decide

theorem test_witness_TimerSetsThenTick :
    (ready 0xF215).status = .running ∧ fetchInstr (ready 0xF215) = .ok (.ldDTVx 2) ∧
    (ready 0xF218).status = .running ∧ fetchInstr (ready 0xF218) = .ok (.ldSTVx 2) := by decide

theorem test_witness_LdBStoresDigits :
    Memory.wf start.mem = true ∧ (start.setIndex 0xFFD#16).index.toNat + 2 < 4096 ∧
    4096 ≤ (start.setIndex 0xFFE#16).index.toNat + 2 := by decide

theorem test_witness_StoreRegsWritesBlock :
    Memory.wf start.mem = true ∧ (start.setIndex 0xFF0#16).index.toNat + (15 : Reg).val < 4096 ∧
    4096 ≤ (start.setIndex 0xFF1#16).index.toNat + (15 : Reg).val := by decide

theorem test_witness_LoadRegsReadsBlock :
    (start.setIndex 0xFFF#16).index.toNat + (0 : Reg).val < 4096 ∧
    4096 ≤ (start.setIndex 0x1000#16).index.toNat + (0 : Reg).val := by decide

theorem test_witness_StoreThenLoadRoundTrips :
    ∃ s t u : State, Memory.wf s.mem = true ∧ s.index.toNat + (2 : Reg).val < 4096 ∧
      exec (.storeRegs 2) s = .next t ∧ u.mem = t.mem ∧ u.index = t.index :=
  ⟨withRegs [(0, 1#8), (2, 3#8)] (start.setIndex 0x400#16), _, _, by decide, by decide, rfl, rfl, rfl⟩

theorem test_witness_BoundsCheckReportsLowest :
    (∀ k, k < 2 → 0xFFE + k < 4096) ∧
    ((∃ k, k < 3 ∧ 0xFFE + k = 4096) ∧ 4096 ≤ 4096 ∧ ∀ k, k < 3 → 4096 ≤ 0xFFE + k → 4096 ≤ 0xFFE + k) ∧
    ((∃ k, k < 1 ∧ 0x2000 + k = 0x2000) ∧ 4096 ≤ 0x2000 ∧
      ∀ k, k < 1 → 4096 ≤ 0x2000 + k → 0x2000 ≤ 0x2000 + k) :=
  ⟨by decide, ⟨⟨2, by decide, by decide⟩, by decide, by decide⟩, ⟨0, by decide, by decide⟩, by decide, by decide⟩

/-- TM23's start: the store overwrites the very next instruction; and the same of a decimal store. -/
theorem test_witness_StoreIsSeenByNextFetch :
    (Memory.wf ((ready 0xF155).setIndex 0x202#16).mem = true ∧
      ((ready 0xF155).setIndex 0x202#16).status = .running ∧
      ((ready 0xF155).setIndex 0x202#16).index.toNat = ((ready 0xF155).setIndex 0x202#16).pc.toNat + 2 ∧
      fetchInstr ((ready 0xF155).setIndex 0x202#16) = .ok (.storeRegs 1) ∧ 1 ≤ (1 : Reg).val ∧
      ((ready 0xF155).setIndex 0x202#16).index.toNat + (1 : Reg).val < 4096) ∧
    (Memory.wf ((ready 0xF033).setIndex 0x202#16).mem = true ∧
      ((ready 0xF033).setIndex 0x202#16).status = .running ∧
      ((ready 0xF033).setIndex 0x202#16).index.toNat = ((ready 0xF033).setIndex 0x202#16).pc.toNat + 2 ∧
      fetchInstr ((ready 0xF033).setIndex 0x202#16) = .ok (.ldB 0) ∧
      ((ready 0xF033).setIndex 0x202#16).index.toNat + 2 < 4096) := by decide

/-- One instruction for each clause, which does change the state named. -/
theorem test_witness_OnlyNamedInstructionsWrite :
    (∃ t, exec .ret { start with sp := 1 } = .next t ∧ t.sp ≠ 1) ∧
    (∃ t, exec (.call 0x300#12) start = .next t ∧ t.stack ≠ start.stack) ∧
    (∃ t, exec (.ldI 1#12) start = .next t ∧ t.index ≠ start.index) ∧
    (∃ t, exec (.ldDTVx 0) (start.setReg 0 1#8) = .next t ∧ t.dt ≠ 0#8) ∧
    (∃ t, exec (.ldSTVx 0) (start.setReg 0 1#8) = .next t ∧ t.st ≠ 0#8) ∧
    (∃ t, exec .cls (withPixels [(0, 0)] start) = .next t ∧ t.pixel 0 0 ≠ (withPixels [(0, 0)] start).pixel 0 0) ∧
    ∃ t, exec (.storeRegs 0) (start.setReg 0 1#8) = .next t ∧ t.mem ≠ start.mem :=
  ⟨⟨_, rfl, by decide⟩, ⟨_, rfl, by decide⟩, ⟨_, rfl, by decide⟩, ⟨_, rfl, by decide⟩, ⟨_, rfl, by decide⟩,
    ⟨_, rfl, by decide⟩, _, rfl, by decide⟩

/-- A flag writer that completes and changes VF, and a write of another register. -/
theorem test_witness_RegisterAndFlagWriters :
    (∃ t, exec (.subReg 0 1) start = .next t ∧ t.reg VF ≠ start.reg VF ∧ writesFlag (.subReg 0 1) = true ∧
      start.status = .running ∧ t.status = .running) ∧
    ∃ t, exec (.ldImm 0 1#8) start = .next t ∧ (0 : Reg) ≠ VF ∧ t.reg 0 ≠ start.reg 0 :=
  ⟨⟨_, rfl, by decide, rfl, rfl, rfl⟩, _, rfl, by decide, by decide⟩

theorem test_witness_StepLeavesHostSurfaces :
    ∃ t, step (ready 0xD010) = .next t ∧ (ready 0xD010).status = .running ∧
      fetchInstr (ready 0xD010) = .ok (.drw 0 1 0) ∧ t.status = .running :=
  ⟨_, rfl, rfl, by decide, rfl⟩

theorem test_witness_OnlyNamedInstructionsFault : mayFault (.addI 15) = false := by decide

theorem test_witness_step_answers_next : ∃ t, step (ready 0x00E0) = .next t := ⟨_, rfl⟩

/-- One address is stacked; the other stack differs in a dead slot alone. -/
theorem test_witness_DeadStackSlotsUnobservable :
    ∃ (s t : State) (slots : Vector Word 16), (∀ k : Fin 16, k.val < s.sp.val → slots[k] = s.stack[k]) ∧
      slots ≠ s.stack ∧ step s = .next t :=
  ⟨{ ready 0x00EE with sp := 1 }, _, start.stack.set 1 0x0BAD#16, by decide, by decide, rfl⟩

theorem test_reset_inv : Inv State.reset := ⟨by decide, by decide, by decide⟩

theorem test_witness_InvariantKeptByStep : Inv State.reset ∧ ∃ t, step State.reset = .next t :=
  ⟨test_reset_inv, _, rfl⟩

theorem test_witness_InvariantKeptByHostMoves : Inv State.reset := test_reset_inv

/-- A running state, whose step faults, and a state already faulted. -/
theorem test_witness_FaultRecordStaysExplained :
    (FaultExplained (ready 0x00EE) ∧ ∃ t, step (ready 0x00EE) = .next t) ∧
    FaultExplained ((ready 0x00EE).faultedBy (.bounds .stackUnderflow 0)) :=
  ⟨⟨trivial, _, rfl⟩, rfl, rfl, by decide⟩

theorem test_witness_LoadProgramCopiesImage : (List.replicate 3584 (0x12#8 : Byte)).length ≤ 3584 :=
  Nat.le_of_eq List.length_replicate

theorem test_witness_OversizedImageOnlyFaults : 3584 < (List.replicate 3585 (0x12#8 : Byte)).length :=
  Nat.le_of_eq List.length_replicate.symm

end Sys2Proof.Tests
end

section
/-! PROOF. What an instruction can do to the state, said once. `Completes` lists the states in which an instruction
that does not fault leaves the machine; `exec_cases` is the one walk through the arms of `exec`, and the statements
about which instruction writes what read the answer off the constructors. -/

namespace Sys2Proof.Machine

/-- The states an instruction completes in (the meanings of 40_control.md to 47_timers_bcd_bulk.md). Instructions that
differ only in the value they compute share a constructor, told apart by what they name as destination. -/
inductive Completes (s : State) : Instr → State → Prop
  | cls : Completes s .cls (s.setScreen blankScreen).next
  | ret (depth : Fin 17) (slot : Fin 16) (hd : depth.val + 1 = s.sp.val) (hs : slot.val = depth.val) :
      Completes s .ret ({ s with sp := depth }.setPc s.stack[slot])
  | jp (nnn : Addr) : Completes s (.jp nnn) (s.setPc (zextAddr nnn))
  | jpV0 (nnn : Addr) : Completes s (.jpV0 nnn) (s.setPc (offsetTarget nnn (s.reg V0)))
  | call (nnn : Addr) (depth : Fin 17) (slot : Fin 16) (hd : depth.val = s.sp.val + 1) (hs : slot.val = s.sp.val) :
      Completes s (.call nnn)
        ({ s with stack := s.stack.set slot (nextAddress s.pc), sp := depth }.setPc (zextAddr nnn))
  | skip {i : Instr} (test : Bool) (hf : writesFlag i = false) : Completes s i (s.skipIf test)
  | hold (x : Reg) : Completes s (.ldVxK x) s
  | setReg {i : Instr} {x : Reg} (v : Byte) (hd : namesDestination i x = true) (hf : writesFlag i = false) :
      Completes s i (s.setReg x v).next
  | setRegFlag {i : Instr} {x : Reg} (v : Byte) (flag : Bool) (hd : namesDestination i x = true)
      (hf : writesFlag i = true) : Completes s i (s.setRegFlag x v flag).next
  | rnd (x : Reg) (nn v : Byte) : Completes s (.rnd x nn) ((s.setReg x v).countDraw).next
  | drw (x y : Reg) (n : Fin 16) (fb : Screen) (hit : Bool) :
      Completes s (.drw x y n) ((s.setScreen fb).setReg VF (flagByte hit)).next
  | ldI (nnn : Addr) : Completes s (.ldI nnn) (s.setIndex (zextAddr nnn)).next
  | addI (x : Reg) (v : Word) (flag : Bool) :
      Completes s (.addI x) ((s.setIndex v).setReg VF (flagByte flag)).next
  | ldF (x : Reg) (d : Fin Config.numGlyphs) : Completes s (.ldF x) (s.setIndex (glyphAddress d)).next
  | ldDT (x : Reg) : Completes s (.ldDTVx x) (s.setDT (s.reg x)).next
  | ldST (x : Reg) : Completes s (.ldSTVx x) (s.setST (s.reg x)).next
  | store {i : Instr} (bytes : List Byte) (hi : (∃ x, i = .ldB x) ∨ ∃ x, i = .storeRegs x)
      (hb : bytes = [] ∨ s.index.toNat + bytes.length ≤ Config.memSize) :
      Completes s i (s.setMem (Memory.writeBytes s.mem s.index.toNat bytes)).next
  | loadRegs (x : Reg) (bytes : List Byte) : Completes s (.loadRegs x) (s.setRegsUpTo x bytes).next

/-- A store that answers a state has passed the bounds check and put the bytes into memory (R42). -/
theorem writeFromIndex_eq_ok {bytes : List Byte} {s t : State} (h : writeFromIndex bytes s = .ok t) :
    (bytes = [] ∨ s.index.toNat + bytes.length ≤ Config.memSize) ∧
      t = s.setMem (Memory.writeBytes s.mem s.index.toNat bytes) := by
  by_cases hb : bytes.length = 0 ∨ s.index.toNat + bytes.length ≤ Config.memSize
  · rw [writeFromIndex_ok hb] at h
    exact ⟨by simpa using hb, (Except.ok.inj h).symm⟩
  · rw [writeFromIndex_error (by omega) (by omega)] at h
    cases h

/-- Every instruction answers a next state: it completes, or it is one of R203's table (or SYS) and takes a fault. -/
theorem exec_completes_or_faults (i : Instr) (s : State) :
    (∃ t, exec i s = .next t ∧ Completes s i t) ∨ (mayFault i = true ∧ ∃ c, exec i s = takeFault c s) := by
  cases i with
  | cls => exact .inl ⟨_, rfl, .cls⟩
  | jp nnn => exact .inl ⟨_, rfl, .jp nnn⟩
  | jpV0 nnn => exact .inl ⟨_, rfl, .jpV0 nnn⟩
  | ldI nnn => exact .inl ⟨_, rfl, .ldI nnn⟩
  | addI x => exact .inl ⟨_, rfl, .addI x _ _⟩
  | ldDTVx x => exact .inl ⟨_, rfl, .ldDT x⟩
  | ldSTVx x => exact .inl ⟨_, rfl, .ldST x⟩
  | rnd x nn => exact .inl ⟨_, rfl, .rnd x nn _⟩
  | seImm | sneImm | seReg | sneReg => exact .inl ⟨_, rfl, .skip _ rfl⟩
  | ldImm x | addImm x | ldReg x | orReg x | andReg x | xorReg x | ldVxDT x =>
    exact .inl ⟨_, rfl, .setReg (x := x) _ (decide_eq_true rfl) rfl⟩
  | addReg x | subReg x | shr x | subnReg x | shl x =>
    exact .inl ⟨_, rfl, .setRegFlag (x := x) _ _ (decide_eq_true rfl) rfl⟩
  | ldVxK x =>
    cases hk : s.lowestKey with
    | some k => exact .inl ⟨_, by rw [exec, execLdVxK, hk], .setReg (x := x) _ (decide_eq_true rfl) rfl⟩
    | none => exact .inl ⟨_, by rw [exec, execLdVxK, hk], .hold x⟩
  | sys nnn => exact .inr ⟨rfl, _, rfl⟩
  | ret =>
    by_cases hsp : s.sp.val = 0
    · exact .inr ⟨rfl, _, by rw [exec, execRet, pop_empty hsp]⟩
    · have hlt : s.sp.val - 1 < 16 := Nat.lt_of_lt_of_le (Nat.sub_one_lt hsp) s.sp_le
      exact .inl ⟨_, by rw [exec, execRet, pop_ok hsp]; rfl,
        .ret ⟨_, Nat.lt_succ_of_lt hlt⟩ ⟨_, hlt⟩ (Nat.sub_one_add_one hsp) rfl⟩
  | call nnn =>
    by_cases hsp : s.sp.val < 16
    · exact .inl ⟨_, by rw [exec, execCall, push_ok _ hsp], .call nnn _ ⟨s.sp.val, hsp⟩ rfl rfl⟩
    · have hfull : s.sp.val = 16 := Nat.le_antisymm s.sp_le (Nat.not_lt.mp hsp)
      exact .inr ⟨rfl, _, by rw [exec, execCall, push_full _ hfull]⟩
  | drw x y n =>
    cases hr : readFromIndex n.val s with
    | ok rows => exact .inl ⟨_, by rw [exec, execDrw, hr], .drw x y n _ _⟩
    | error c => exact .inr ⟨rfl, c, by rw [exec, execDrw, hr]⟩
  | skp x =>
    cases hc : checkIndex .keyIndex Config.numKeys (s.reg x) with
    | ok k => exact .inl ⟨_, by rw [exec, execSkp, hc], .skip _ rfl⟩
    | error c => exact .inr ⟨rfl, c, by rw [exec, execSkp, hc]⟩
  | sknp x =>
    cases hc : checkIndex .keyIndex Config.numKeys (s.reg x) with
    | ok k => exact .inl ⟨_, by rw [exec, execSknp, hc], .skip _ rfl⟩
    | error c => exact .inr ⟨rfl, c, by rw [exec, execSknp, hc]⟩
  | ldF x =>
    cases hc : checkIndex .glyphIndex Config.numGlyphs (s.reg x) with
    | ok d => exact .inl ⟨_, by rw [exec, execLdF, hc], .ldF x d⟩
    | error c => exact .inr ⟨rfl, c, by rw [exec, execLdF, hc]⟩
  | ldB x =>
    cases hw : writeFromIndex (bcdDigits (s.reg x)) s with
    | ok t =>
      obtain ⟨hb, rfl⟩ := writeFromIndex_eq_ok hw
      exact .inl ⟨_, by rw [exec, execLdB, hw], .store _ (.inl ⟨x, rfl⟩) hb⟩
    | error c => exact .inr ⟨rfl, c, by rw [exec, execLdB, hw]⟩
  | storeRegs x =>
    cases hw : writeFromIndex (s.regsUpTo x) s with
    | ok t =>
      obtain ⟨hb, rfl⟩ := writeFromIndex_eq_ok hw
      exact .inl ⟨_, by rw [exec, execStoreRegs, hw], .store _ (.inr ⟨x, rfl⟩) hb⟩
    | error c => exact .inr ⟨rfl, c, by rw [exec, execStoreRegs, hw]⟩
  | loadRegs x =>
    cases hr : readFromIndex (x.val + 1) s with
    | ok bytes => exact .inl ⟨_, by rw [exec, execLoadRegs, hr], .loadRegs x bytes⟩
    | error c => exact .inr ⟨rfl, c, by rw [exec, execLoadRegs, hr]⟩

/-- Every instruction answers a next state (R80). -/
theorem exec_answers (i : Instr) (s : State) : ∃ t, exec i s = .next t := by
  obtain ⟨t, ht, -⟩ | ⟨-, c, hc⟩ := exec_completes_or_faults i s
  · exact ⟨t, ht⟩
  · exact ⟨_, hc⟩

/-- What an instruction that answers `t` has done: completed, or recorded a fault and nothing else (R83, R205). -/
theorem exec_cases {i : Instr} {s t : State} (h : exec i s = .next t) :
    Completes s i t ∨ (mayFault i = true ∧ ∃ c, t = s.setStatus (.faulted c)) := by
  obtain ⟨u, hu, hc⟩ | ⟨hm, c, hc⟩ := exec_completes_or_faults i s
  · obtain rfl : u = t := Host.Outcome.next.inj (hu.symm.trans h)
    exact .inl hc
  · exact .inr ⟨hm, c, Host.Outcome.next.inj (h.symm.trans hc)⟩

end Sys2Proof.Machine
end

section
/-! PROOF. Which instruction writes which piece of state (10_state.md), read off the constructors of `Completes`. -/

namespace Sys2Proof.Machine

section Writers

variable {i : Instr} {s t : State}

theorem Completes.sp_writer (h : Completes s i t) (hne : t.sp ≠ s.sp) : i = .ret ∨ ∃ nnn, i = .call nnn := by
  cases h with
  | ret => exact .inl rfl
  | call nnn => exact .inr ⟨nnn, rfl⟩
  | _ => simp at hne

theorem Completes.stack_writer (h : Completes s i t) (hne : t.stack ≠ s.stack) : ∃ nnn, i = .call nnn := by
  cases h with
  | call nnn => exact ⟨nnn, rfl⟩
  | _ => simp at hne

theorem Completes.index_writer (h : Completes s i t) (hne : t.index ≠ s.index) :
    (∃ nnn, i = .ldI nnn) ∨ (∃ x, i = .addI x) ∨ ∃ x, i = .ldF x := by
  cases h with
  | ldI nnn => exact .inl ⟨nnn, rfl⟩
  | addI x => exact .inr (.inl ⟨x, rfl⟩)
  | ldF x => exact .inr (.inr ⟨x, rfl⟩)
  | _ => simp at hne

theorem Completes.dt_writer (h : Completes s i t) (hne : t.dt ≠ s.dt) : ∃ x, i = .ldDTVx x := by
  cases h with
  | ldDT x => exact ⟨x, rfl⟩
  | _ => simp at hne

theorem Completes.st_writer (h : Completes s i t) (hne : t.st ≠ s.st) : ∃ x, i = .ldSTVx x := by
  cases h with
  | ldST x => exact ⟨x, rfl⟩
  | _ => simp at hne

theorem Completes.fb_writer (h : Completes s i t) (hne : t.fb ≠ s.fb) : i = .cls ∨ ∃ x y n, i = .drw x y n := by
  cases h with
  | cls => exact .inl rfl
  | drw x y n => exact .inr ⟨x, y, n, rfl⟩
  | _ => simp at hne

theorem Completes.mem_writer (h : Completes s i t) (hne : t.mem ≠ s.mem) :
    (∃ x, i = .ldB x) ∨ ∃ x, i = .storeRegs x := by
  cases h with
  | store _ hi => exact hi
  | _ => simp at hne

/-- A register changes only as a destination, or as VF under a flag writer. -/
theorem Completes.reg_writer {r : Reg} (h : Completes s i t) (hne : t.reg r ≠ s.reg r) :
    namesDestination i r = true ∨ (r = VF ∧ writesFlag i = true) := by
  cases h with
  | @setReg _ x v hd _ =>
    have hr : r = x := by by_contra hr; simp [State.reg_setReg_of_ne _ _ hr] at hne
    exact .inl (hr ▸ hd)
  | @setRegFlag _ x v flag hd hf =>
    by_cases hr : r = VF
    · exact .inr ⟨hr, hf⟩
    · have hx : r = x := by by_contra hx; simp [State.reg_setRegFlag, hr, hx] at hne
      exact .inl (hx ▸ hd)
  | rnd x nn v =>
    have hr : r = x := by by_contra hr; simp [State.reg_setReg_of_ne _ _ hr] at hne
    exact .inl (decide_eq_true hr)
  | loadRegs x bytes =>
    have hr : r ≤ x := by by_contra hr; simp [State.reg_setRegsUpTo, hr] at hne
    exact .inl (decide_eq_true hr)
  | drw | addI =>
    have hr : r = VF := by by_contra hr; simp [State.reg_setReg_of_ne _ _ hr] at hne
    exact .inr ⟨hr, rfl⟩
  | _ => simp [State.reg] at hne

theorem flagByte_eq_zero_or_one (b : Bool) : flagByte b = 0#8 ∨ flagByte b = 1#8 := by
  cases b
  · exact .inl rfl
  · exact .inr rfl

/-- A flag writer leaves its flag in VF, whatever its destination (R130). -/
theorem Completes.flag (h : Completes s i t) (hw : writesFlag i = true) :
    ∃ b, t.reg VF = flagByte b := by
  cases h with
  | setRegFlag v flag => exact ⟨flag, by simp [State.reg_setRegFlag]⟩
  | drw x y n fb hit => exact ⟨hit, by simp⟩
  | addI x v flag => exact ⟨flag, by simp⟩
  | skip | setReg => simp_all
  | store _ hi => obtain ⟨x, rfl⟩ | ⟨x, rfl⟩ := hi <;> cases hw
  | _ => cases hw

/-- No instruction writes the key latch (R18). -/
theorem Completes.keys (h : Completes s i t) : t.keys = s.keys := by cases h <;> simp

/-- No instruction that completes changes `status` (R24). -/
theorem Completes.status (h : Completes s i t) : t.status = s.status := by cases h <;> simp

/-- `redraw` is left alone or set (R20). -/
theorem Completes.redraw (h : Completes s i t) : t.redraw = s.redraw ∨ t.redraw = true := by
  cases h with
  | cls => exact .inr rfl
  | drw => exact .inr rfl
  | _ => simp

end Writers

/-- Settles O47: a fault entry changes `status` alone, and each constructor of `Completes` names what it writes. -/
theorem onlyNamedInstructionsWrite : Obligations.OnlyNamedInstructionsWrite := by
  intro i s t h
  obtain hc | ⟨-, c, rfl⟩ := exec_cases h
  · exact ⟨hc.sp_writer, hc.stack_writer, hc.index_writer, hc.dt_writer, hc.st_writer, hc.fb_writer, hc.mem_writer⟩
  · simp

/-- Settles O48: who changes a register, and what the seven flag writers leave in VF. -/
theorem registerAndFlagWriters : Obligations.RegisterAndFlagWriters := by
  intro i s t h
  obtain hc | ⟨-, c, rfl⟩ := exec_cases h
  · refine ⟨fun hne => ?_, fun hw _ _ => ?_, fun r hr hne => ?_⟩
    · exact (hc.reg_writer hne).symm.imp_left And.right
    · obtain ⟨b, hb⟩ := hc.flag hw
      exact hb ▸ flagByte_eq_zero_or_one b
    · exact (hc.reg_writer hne).resolve_right fun hv => hr hv.1
  · simp

end Sys2Proof.Machine
end

section
/-! PROOF. What every step keeps: the host's surfaces (R18, R20) and the invariant of the state (R13, R21, R103). -/

namespace Sys2Proof.Machine

/-! ### The end of a step changes the timers alone (R81, R220) -/

section Finish

variable (s : State)

/-- The end of a step ticks the timers or does nothing. -/
theorem State.finish_eq_tick_or_self : s.finish = s.tick ∨ s.finish = s := by
  cases hs : s.status with
  | running => exact .inl (finish_of_running hs)
  | faulted c => exact .inr (finish_of_faulted hs)

@[simp] theorem State.finish_pc : s.finish.pc = s.pc := by
  obtain h | h := s.finish_eq_tick_or_self <;> simp [h]
@[simp] theorem State.finish_stack : s.finish.stack = s.stack := by
  obtain h | h := s.finish_eq_tick_or_self <;> simp [h]
@[simp] theorem State.finish_keys : s.finish.keys = s.keys := by
  obtain h | h := s.finish_eq_tick_or_self <;> simp [h]
@[simp] theorem State.finish_redraw : s.finish.redraw = s.redraw := by
  obtain h | h := s.finish_eq_tick_or_self <;> simp [h]
@[simp] theorem State.finish_mem : s.finish.mem = s.mem := by
  obtain h | h := s.finish_eq_tick_or_self <;> simp [h]
@[simp] theorem State.finish_status : s.finish.status = s.status := by
  obtain h | h := s.finish_eq_tick_or_self <;> simp [h]

end Finish

/-- What a step that answers `t` has done: nothing, recorded a fault and nothing else, or completed the instruction
fetched and finished. -/
theorem step_completes {s t : State} (h : step s = .next t) :
    t = s ∨ (∃ c, t = s.setStatus (.faulted c)) ∨
      ∃ i u, fetchInstr s = .ok i ∧ Completes s i u ∧ t = u.finish := by
  obtain ⟨-, -, rfl⟩ | ⟨-, c, -, rfl⟩ | ⟨-, i, u, hf, he, rfl⟩ := step_cases h
  · exact .inl rfl
  · exact .inr (.inl ⟨c, rfl⟩)
  · obtain hc | ⟨-, c, rfl⟩ := exec_cases he
    · exact .inr (.inr ⟨i, u, hf, hc, rfl⟩)
    · exact .inr (.inl ⟨c, finish_of_faulted rfl⟩)

/-! ### The host's surfaces -/

/-- CLS, and DRW when it completes, set `redraw` (R20). -/
theorem redraw_of_exec_screen_writer {i : Instr} {s t : State} (h : exec i s = .next t)
    (hi : i = .cls ∨ ∃ x y n, i = .drw x y n) (hr : t.status = .running) : t.redraw = true := by
  obtain rfl | ⟨x, y, n, rfl⟩ := hi
  · obtain rfl := Host.Outcome.next.inj h
    rfl
  · rw [exec, execDrw] at h
    split at h
    · obtain rfl := Host.Outcome.next.inj h
      rfl
    · obtain rfl := Host.Outcome.next.inj h
      cases hr

/-- No step writes the key latch or clears `redraw` (R18, R20). -/
theorem step_keeps_host_surfaces {s t : State} (h : step s = .next t) :
    t.keys = s.keys ∧ (s.redraw = true → t.redraw = true) := by
  obtain rfl | ⟨c, rfl⟩ | ⟨i, u, -, hc, rfl⟩ := step_completes h
  · exact ⟨rfl, id⟩
  · exact ⟨rfl, id⟩
  · rw [State.finish_keys, State.finish_redraw]
    exact ⟨hc.keys, fun hs => hc.redraw.elim (·.trans hs) id⟩

/-- Settles O49: a step of a running machine that fetches `i` is `exec i` and the tick, which leaves `redraw`. -/
theorem stepLeavesHostSurfaces : Obligations.StepLeavesHostSurfaces := by
  intro s t h
  obtain ⟨hkeys, hredraw⟩ := step_keeps_host_surfaces h
  refine ⟨hkeys, hredraw, fun i hrun hfetch hi ht => ?_⟩
  obtain ⟨u, he⟩ := exec_answers i s
  obtain rfl := Host.Outcome.next.inj ((step_of_fetch hrun hfetch he).symm.trans h)
  rw [State.finish_status] at ht
  rw [State.finish_redraw]
  exact redraw_of_exec_screen_writer he hi ht

/-! ### The invariant -/

/-- The invariant speaks of the memory, `PC` and the stack alone. -/
theorem Inv.congr {s t : State} (h : Inv s) (hm : t.mem = s.mem) (hp : t.pc = s.pc) (hs : t.stack = s.stack) :
    Inv t :=
  ⟨hm ▸ h.memory, hp ▸ h.pc, hs ▸ h.stack⟩

/-- A fetch that answers an instruction found both its bytes below address 4096 (R61). -/
theorem pc_of_fetchInstr_ok {s : State} {i : Instr} (h : fetchInstr s = .ok i) : s.pc.toNat + 2 ≤ 4096 := by
  by_contra hpc
  rw [fetchInstr, fetchWord_error (by omega)] at h
  cases h

section Invariant

variable {i : Instr} {s t : State}

/-- An instruction that completes keeps the memory canonical: it stores only after the bounds check (R42). -/
theorem Completes.wf_mem (h : Completes s i t) (hm : Memory.wf s.mem = true) : Memory.wf t.mem = true := by
  cases h with
  | store bytes _ hb => exact Memory.wf_writeBytes hm hb
  | _ => simpa using hm

/-- The largest `PC` is that of JP V0, 0xFFF + 0xFF (R108); a return address is at most 0x1000, and from the last
fetchable address a skip leads to 0x1002 at most. -/
theorem Completes.pc_le (h : Completes s i t) (hpc : s.pc.toNat + 2 ≤ 4096)
    (hstack : ∀ k : Fin 16, (s.stack[k]).toNat ≤ 0x1000) : t.pc.toNat ≤ 0x10FE := by
  have hadvance (v : Word) (hv : v.toNat ≤ 4) : (s.pc + v).toNat ≤ 0x10FE := calc
    (s.pc + v).toNat ≤ s.pc.toNat + v.toNat := BitVec.toNat_add .. ▸ Nat.mod_le ..
    _ ≤ 0x10FE := by omega
  cases h with
  | ret depth slot => exact (hstack slot).trans (by decide)
  | jp nnn | call nnn =>
    have := nnn.isLt
    simp only [State.setPc_pc, toNat_zextAddr]
    omega
  | jpV0 nnn =>
    have := nnn.isLt
    have := (s.reg V0).isLt
    simp only [State.setPc_pc, toNat_offsetTarget]
    omega
  | skip test _ =>
    cases test
    · simpa using hadvance 2#16 (by decide)
    · simpa using hadvance 4#16 (by decide)
  | hold => omega
  | _ => simpa using hadvance 2#16 (by decide)

/-- The one address ever pushed is that of the instruction after a CALL, at most 0x1000 (R103). -/
theorem Completes.stack_le (h : Completes s i t) (hpc : s.pc.toNat + 2 ≤ 4096)
    (hstack : ∀ k : Fin 16, (s.stack[k]).toNat ≤ 0x1000) (k : Fin 16) : (t.stack[k]).toNat ≤ 0x1000 := by
  cases h with
  | call nnn depth slot =>
    have hret : (nextAddress s.pc).toNat ≤ 0x1000 := by rw [toNat_nextAddress]; omega
    simp only [State.setPc_stack, Fin.getElem_fin, Vector.getElem_set]
    split
    · exact hret
    · exact hstack k
  | _ => simpa using hstack k

/-- An instruction that completes at a fetchable address keeps the invariant. -/
theorem Completes.inv (h : Completes s i t) (hpc : s.pc.toNat + 2 ≤ 4096) (hs : Inv s) : Inv t :=
  ⟨h.wf_mem hs.memory, h.pc_le hpc hs.stack, h.stack_le hpc hs.stack⟩

end Invariant

/-- Settles O54: a fault entry and the end of the step leave what the invariant speaks of; the fetch bounds `PC` for
the instruction. -/
theorem invariantKeptByStep : Obligations.InvariantKeptByStep := by
  intro s t hs h
  obtain rfl | ⟨c, rfl⟩ | ⟨i, u, hf, hc, rfl⟩ := step_completes h
  · exact hs
  · exact hs.congr rfl rfl rfl
  · exact (hc.inv (pc_of_fetchInstr_ok hf) hs).congr u.finish_mem u.finish_pc u.finish_stack

/-- Settles O55: after reset nothing is listed in memory, `PC` is 0x200 and every stack slot is 0. -/
theorem invariantHoldsAtReset : Obligations.InvariantHoldsAtReset :=
  ⟨wf_reset, by decide, by decide⟩

end Sys2Proof.Machine
end

section
/-! PROOF. What the core never reads: `redraw`, `ST` and the dead stack slots (R15, R17, R20). Two states that differ
in nothing else are told apart by no operation an instruction is written in, so by no instruction and no step; the
three statements are this one fact, each with one of the three left to differ. -/

namespace Sys2Proof.Machine

/-- Which of the three unread pieces of state may differ. -/
structure Unread where
  /-- The redraw-pending flag (R20). -/
  redraw : Bool := false
  /-- `ST` (R17). -/
  sound : Bool := false
  /-- The stack slots at and above `SP` (R15). -/
  dead : Bool := false

/-- The second state agrees with the first in everything the core reads, and in the unread pieces not named. -/
structure AgreesBut (d : Unread) (s s' : State) : Prop where
  regs : s'.regs = s.regs
  index : s'.index = s.index
  pc : s'.pc = s.pc
  sp : s'.sp = s.sp
  live : ∀ k : Fin 16, k.val < s.sp.val → s'.stack[k] = s.stack[k]
  dt : s'.dt = s.dt
  keys : s'.keys = s.keys
  fb : s'.fb = s.fb
  mem : s'.mem = s.mem
  status : s'.status = s.status
  draws : s'.draws = s.draws
  redraw : d.redraw = false → s'.redraw = s.redraw
  sound : d.sound = false → s'.st = s.st
  dead : d.dead = false → s'.stack = s.stack

namespace AgreesBut

theorem refl (d : Unread) (s : State) : AgreesBut d s s where
  regs := rfl
  index := rfl
  pc := rfl
  sp := rfl
  live _ _ := rfl
  dt := rfl
  keys := rfl
  fb := rfl
  mem := rfl
  status := rfl
  draws := rfl
  redraw _ := rfl
  sound _ := rfl
  dead _ := rfl

variable {d : Unread} {s s' : State}

/-- The agreeing state is the first one with other unread pieces. -/
theorem eq (h : AgreesBut d s s') : s' = { s with redraw := s'.redraw, st := s'.st, stack := s'.stack } := by
  obtain ⟨hregs, hindex, hpc, hsp, -, hdt, hkeys, hfb, hmem, hstatus, hdraws, -, -, -⟩ := h
  cases s'
  simp_all

/-! ### The values read are the same -/

theorem reg (h : AgreesBut d s s') (r : Reg) : s'.reg r = s.reg r := by simp only [State.reg, h.regs]

theorem key (h : AgreesBut d s s') (k : KeyCode) : s'.key k = s.key k := by simp only [State.key, h.keys]

theorem lowestKey (h : AgreesBut d s s') : s'.lowestKey = s.lowestKey := by simp only [State.lowestKey, h.key]

theorem regsUpTo (h : AgreesBut d s s') (x : Reg) : s'.regsUpTo x = s.regsUpTo x := by
  simp only [State.regsUpTo, h.regs]

theorem nextDraw (h : AgreesBut d s s') : nextDraw s' = nextDraw s := by simp only [Machine.nextDraw, h.draws]

theorem readFromIndex (h : AgreesBut d s s') (n : Nat) : readFromIndex n s' = readFromIndex n s := by
  simp only [Machine.readFromIndex, h.index, h.mem]

/-! ### Every update of the state keeps the agreement -/

theorem withRegs (h : AgreesBut d s s') {regs regs' : Vector Byte 16} (hr : regs' = regs) :
    AgreesBut d { s with regs := regs } { s' with regs := regs' } :=
  { h with regs := hr }

theorem setReg (h : AgreesBut d s s') (x : Reg) {v v' : Byte} (hv : v' = v) :
    AgreesBut d (s.setReg x v) (s'.setReg x v') :=
  h.withRegs (by rw [h.regs, hv])

theorem setRegFlag (h : AgreesBut d s s') (x : Reg) {v v' : Byte} {b b' : Bool} (hv : v' = v) (hb : b' = b) :
    AgreesBut d (s.setRegFlag x v b) (s'.setRegFlag x v' b') :=
  (h.setReg x hv).setReg VF (congrArg flagByte hb)

theorem setRegsUpTo (h : AgreesBut d s s') (x : Reg) (bytes : List Byte) :
    AgreesBut d (s.setRegsUpTo x bytes) (s'.setRegsUpTo x bytes) :=
  h.withRegs (by simp only [h.reg])

theorem setIndex (h : AgreesBut d s s') {v v' : Word} (hv : v' = v) : AgreesBut d (s.setIndex v) (s'.setIndex v') :=
  { h with index := hv }

theorem setPc (h : AgreesBut d s s') {v v' : Word} (hv : v' = v) : AgreesBut d (s.setPc v) (s'.setPc v') :=
  { h with pc := hv }

theorem next (h : AgreesBut d s s') : AgreesBut d s.next s'.next := h.setPc (congrArg nextAddress h.pc)

theorem skipIf (h : AgreesBut d s s') {test test' : Bool} (ht : test' = test) :
    AgreesBut d (s.skipIf test) (s'.skipIf test') := by
  subst ht
  cases test'
  · exact h.next
  · exact h.setPc (by rw [h.pc])

/-- A new stack and depth: the slots live under the new depth have to agree. -/
theorem withStack (h : AgreesBut d s s') {stack stack' : Vector Word 16} {sp sp' : Fin 17} (hsp : sp' = sp)
    (hlive : ∀ k : Fin 16, k.val < sp.val → stack'[k] = stack[k]) (hdead : d.dead = false → stack' = stack) :
    AgreesBut d { s with stack := stack, sp := sp } { s' with stack := stack', sp := sp' } :=
  { h with sp := hsp, live := hlive, dead := hdead }

theorem setDT (h : AgreesBut d s s') {v v' : Byte} (hv : v' = v) : AgreesBut d (s.setDT v) (s'.setDT v') :=
  { h with dt := hv }

theorem setST (h : AgreesBut d s s') {v v' : Byte} (hv : v' = v) : AgreesBut d (s.setST v) (s'.setST v') :=
  { h with sound := fun _ => hv }

theorem setMem (h : AgreesBut d s s') {m m' : Memory} (hm : m' = m) : AgreesBut d (s.setMem m) (s'.setMem m') :=
  { h with mem := hm }

theorem setScreen (h : AgreesBut d s s') (fb : Screen) : AgreesBut d (s.setScreen fb) (s'.setScreen fb) :=
  { h with fb := rfl, redraw := fun _ => rfl }

theorem setStatus (h : AgreesBut d s s') (st : Status) : AgreesBut d (s.setStatus st) (s'.setStatus st) :=
  { h with status := rfl }

theorem countDraw (h : AgreesBut d s s') : AgreesBut d s.countDraw s'.countDraw :=
  { h with draws := congrArg (· + 1) h.draws }

theorem tick (h : AgreesBut d s s') : AgreesBut d s.tick s'.tick :=
  { h with dt := congrArg tickTimer h.dt, sound := fun hd => congrArg tickTimer (h.sound hd) }

theorem finish (h : AgreesBut d s s') : AgreesBut d s.finish s'.finish := by
  cases hs : s.status with
  | running =>
    rw [finish_of_running hs, finish_of_running (h.status.trans hs)]
    exact h.tick
  | faulted c =>
    rw [finish_of_faulted hs, finish_of_faulted (h.status.trans hs)]
    exact h

end AgreesBut

/-- Both answers are next states, and they agree. -/
inductive ResultsAgree (d : Unread) : Result → Result → Prop
  | next {t t' : State} (h : AgreesBut d t t') : ResultsAgree d (.next t) (.next t')

section Steps

variable {d : Unread} {s s' : State}

theorem AgreesBut.takeFault (h : AgreesBut d s s') (c : Cause) : ResultsAgree d (takeFault c s) (takeFault c s') :=
  .next (h.setStatus _)

/-- CALL writes the slot that becomes live, with the same address in both states; the slots below it were live. -/
theorem AgreesBut.execCall (h : AgreesBut d s s') (nnn : Addr) :
    ResultsAgree d (execCall nnn s) (execCall nnn s') := by
  by_cases hsp : s.sp.val < 16
  · have hsp' : s'.sp.val < 16 := h.sp ▸ hsp
    rw [Machine.execCall, Machine.execCall, push_ok _ hsp, push_ok _ hsp']
    refine .next ((h.withStack ?_ (fun k hk => ?_) (fun hd => ?_)).setPc rfl)
    · simp only [h.sp]
    · by_cases hk' : k.val = s.sp.val
      · simp [h.sp, h.pc, hk']
      · have hlt : k.val < s.sp.val := by simp only at hk; omega
        simpa [h.sp, Ne.symm hk'] using h.live k hlt
    · simp only [h.sp, h.pc, h.dead hd]
  · have hfull : s.sp.val = 16 := Nat.le_antisymm s.sp_le (Nat.not_lt.mp hsp)
    rw [Machine.execCall, Machine.execCall, push_full _ hfull, push_full _ (h.sp ▸ hfull)]
    exact h.takeFault _

/-- RET reads the slot below `SP`, which is live; the slots live after it were live before. -/
theorem AgreesBut.execRet (h : AgreesBut d s s') : ResultsAgree d (execRet s) (execRet s') := by
  by_cases hsp : s.sp.val = 0
  · rw [Machine.execRet, Machine.execRet, pop_empty hsp, pop_empty (h.sp ▸ hsp)]
    exact h.takeFault _
  · have hlt : s.sp.val - 1 < s.sp.val := Nat.sub_one_lt hsp
    rw [Machine.execRet, Machine.execRet, pop_ok hsp, pop_ok (h.sp ▸ hsp)]
    refine .next ((h.withStack ?_ (fun k hk => ?_) h.dead).setPc ?_)
    · simp only [h.sp]
    · exact h.live k (Nat.lt_trans hk hlt)
    · simp only [h.sp]
      exact h.live ⟨s.sp.val - 1, Nat.lt_of_lt_of_le hlt s.sp_le⟩ hlt

/-- A store checks `I` and writes the memory, which are the same in both states. -/
theorem AgreesBut.writeFromIndex (h : AgreesBut d s s') (bytes : List Byte) :
    (∃ t t', writeFromIndex bytes s = .ok t ∧ writeFromIndex bytes s' = .ok t' ∧ AgreesBut d t t') ∨
      ∃ c, writeFromIndex bytes s = .error c ∧ writeFromIndex bytes s' = .error c := by
  simp only [Machine.writeFromIndex, h.index, h.mem]
  cases checkRange .memWrite s.index.toNat bytes.length with
  | ok _ => exact .inl ⟨_, _, rfl, rfl, h.setMem rfl⟩
  | error c => exact .inr ⟨c, rfl, rfl⟩

/-- No instruction tells agreeing states apart. -/
theorem exec_agrees (h : AgreesBut d s s') (i : Instr) : ResultsAgree d (exec i s) (exec i s') := by
  cases i with
  | cls => exact .next (h.setScreen _).next
  | ret => exact h.execRet
  | sys nnn => exact h.takeFault _
  | jp nnn => exact .next (h.setPc rfl)
  | jpV0 nnn => exact .next (h.setPc (by rw [h.reg]))
  | call nnn => exact h.execCall nnn
  | seImm | sneImm | seReg | sneReg => exact .next (h.skipIf (by simp only [h.reg]))
  | ldImm x | addImm x | ldReg x | orReg x | andReg x | xorReg x =>
    exact .next (h.setReg x (by simp only [h.reg])).next
  | addReg x | subReg x | shr x | subnReg x | shl x =>
    exact .next (h.setRegFlag x (by simp only [h.reg]) (by simp only [h.reg])).next
  | ldI nnn => exact .next (h.setIndex rfl).next
  | addI x => exact .next ((h.setIndex (by rw [h.index, h.reg])).setReg VF (by rw [h.index, h.reg])).next
  | rnd x nn => exact .next (h.setReg x (by rw [h.nextDraw])).countDraw.next
  | ldVxDT x => exact .next (h.setReg x h.dt).next
  | ldDTVx x => exact .next (h.setDT (h.reg x)).next
  | ldSTVx x => exact .next (h.setST (h.reg x)).next
  | ldVxK x =>
    rw [exec, exec, execLdVxK, execLdVxK, h.lowestKey]
    cases s.lowestKey with
    | some k => exact .next (h.setReg x rfl).next
    | none => exact .next h
  | drw x y n =>
    rw [exec, exec, execDrw, execDrw, h.readFromIndex, h.reg, h.reg, h.fb]
    cases readFromIndex n.val s with
    | ok rows => exact .next ((h.setScreen _).setReg VF rfl).next
    | error c => exact h.takeFault c
  | skp x =>
    rw [exec, exec, execSkp, execSkp, h.reg]
    cases checkIndex .keyIndex Config.numKeys (s.reg x) with
    | ok k => exact .next (h.skipIf (h.key k))
    | error c => exact h.takeFault c
  | sknp x =>
    rw [exec, exec, execSknp, execSknp, h.reg]
    cases checkIndex .keyIndex Config.numKeys (s.reg x) with
    | ok k => exact .next (h.skipIf (by rw [h.key]))
    | error c => exact h.takeFault c
  | ldF x =>
    rw [exec, exec, execLdF, execLdF, h.reg]
    cases checkIndex .glyphIndex Config.numGlyphs (s.reg x) with
    | ok g => exact .next (h.setIndex rfl).next
    | error c => exact h.takeFault c
  | ldB x =>
    rw [exec, exec, execLdB, execLdB, h.reg]
    obtain ⟨t, t', ht, ht', ha⟩ | ⟨c, hc, hc'⟩ := h.writeFromIndex (bcdDigits (s.reg x))
    · rw [ht, ht']
      exact .next ha.next
    · rw [hc, hc']
      exact h.takeFault c
  | storeRegs x =>
    rw [exec, exec, execStoreRegs, execStoreRegs, h.regsUpTo]
    obtain ⟨t, t', ht, ht', ha⟩ | ⟨c, hc, hc'⟩ := h.writeFromIndex (s.regsUpTo x)
    · rw [ht, ht']
      exact .next ha.next
    · rw [hc, hc']
      exact h.takeFault c
  | loadRegs x =>
    rw [exec, exec, execLoadRegs, execLoadRegs, h.readFromIndex]
    cases readFromIndex (x.val + 1) s with
    | ok bytes => exact .next (h.setRegsUpTo x bytes).next
    | error c => exact h.takeFault c

/-- No step tells agreeing states apart. -/
theorem step_agrees {t : State} (h : AgreesBut d s s') (hstep : step s = .next t) :
    ∃ t', step s' = .next t' ∧ AgreesBut d t t' := by
  have hfetch : fetchInstr s' = fetchInstr s := fetchInstr_congr h.pc h.mem
  obtain ⟨c, hs, rfl⟩ | ⟨hs, c, hf, rfl⟩ | ⟨hs, i, u, hf, he, rfl⟩ := step_cases hstep
  · exact ⟨s', by simp only [step, h.status, hs], h⟩
  · exact ⟨_, by simp only [step, h.status, hs, hfetch, hf]; rfl, h.setStatus _⟩
  · have ha := exec_agrees h i
    rw [he] at ha
    generalize he' : exec i s' = r at ha
    obtain ⟨ha⟩ := ha
    exact ⟨_, step_of_fetch (h.status.trans hs) (hfetch.trans hf) he', ha.finish⟩

end Steps

/-- Settles O51: the two states agree but for `redraw`. -/
theorem redrawIsNeverRead : Obligations.RedrawIsNeverRead := by
  intro s t b h
  have hs : AgreesBut { redraw := true } s { s with redraw := b } := { AgreesBut.refl _ s with redraw := nofun }
  obtain ⟨t', ht', ha⟩ := step_agrees hs h
  refine ⟨t'.redraw, ht'.trans (congrArg _ (ha.eq.trans ?_))⟩
  rw [ha.sound rfl, ha.dead rfl]

/-- Settles O52: the two states agree but for `ST`. -/
theorem soundTimerIsNeverRead : Obligations.SoundTimerIsNeverRead := by
  intro s t v h
  have hs : AgreesBut { sound := true } s { s with st := v } := { AgreesBut.refl _ s with sound := nofun }
  obtain ⟨t', ht', ha⟩ := step_agrees hs h
  refine ⟨t'.st, ht'.trans (congrArg _ (ha.eq.trans ?_))⟩
  rw [ha.redraw rfl, ha.dead rfl]

/-- Settles O53: the two states agree but for the dead slots, and so do the next ones, on the slots live there. -/
theorem deadStackSlotsUnobservable : Obligations.DeadStackSlotsUnobservable := by
  intro s t slots hlive h
  have hs : AgreesBut { dead := true } s { s with stack := slots } :=
    { AgreesBut.refl _ s with live := hlive, dead := nofun }
  obtain ⟨t', ht', ha⟩ := step_agrees hs h
  refine ⟨t'.stack, ha.live, ht'.trans (congrArg _ (ha.eq.trans ?_))⟩
  rw [ha.redraw rfl, ha.sound rfl]

end Sys2Proof.Machine
end

section
/-! PROOF. Memory access (20_memory.md): what the bounds check reports (R42), and that a store over the next
instruction is what the next step fetches (R53). -/

namespace Sys2Proof.Machine

/-! ### The bounds check -/

/-- Settles O45: the highest address of the access decides whether the check passes, and the lowest one out of range is
4096, or the base when the base itself is out of range. -/
theorem boundsCheckReportsLowest : Obligations.BoundsCheckReportsLowest := by
  refine fun kind base len => ⟨fun hall => checkRange_ok ?_, ?_⟩
  · by_cases hlen : len = 0
    · exact .inl hlen
    · have hlast := hall (len - 1) (by omega)
      exact .inr (show base + len ≤ 4096 by omega)
  · rintro _ ⟨k, hk, rfl⟩ hout hlowest
    have hlow : max 4096 base = base + k := by
      have hfirst := hlowest (max 4096 base - base) (by omega) (by omega)
      omega
    rw [checkRange_error (by omega) (show 4096 < base + len by omega), hlow]

/-! ### The two storing instructions inside the memory (R193, R194) -/

/-- LD [I], Vx with its block in memory stores the registers and goes on (R194). -/
theorem exec_storeRegs_ok {x : Reg} {s : State} (h : s.index.toNat + x.val < 4096) :
    exec (.storeRegs x) s = .next (s.setMem (Memory.writeBytes s.mem s.index.toNat (s.regsUpTo x))).next := by
  have hb : s.index.toNat + (s.regsUpTo x).length ≤ 4096 := by rw [State.length_regsUpTo]; omega
  rw [exec, execStoreRegs, writeFromIndex_ok (.inr hb)]

/-- LD B, Vx with its digits in memory stores them and goes on (R193). -/
theorem exec_ldB_ok {x : Reg} {s : State} (h : s.index.toNat + 2 < 4096) :
    exec (.ldB x) s = .next (s.setMem (Memory.writeBytes s.mem s.index.toNat (bcdDigits (s.reg x)))).next := by
  rw [exec, execLdB, writeFromIndex_ok (.inr (show s.index.toNat + 3 ≤ 4096 from h))]

/-! ### A store over the next instruction -/

/-- Byte `k` of a range written inside the address space reads back at `base + k`. -/
theorem Memory.read_writeBytes_add {m : Memory} {base k : Nat} {vs : List Byte} (hm : Memory.wf m = true)
    (h : base + vs.length ≤ Config.memSize) (hk : k < vs.length) :
    Memory.read (Memory.writeBytes m base vs) (base + k) = vs.getD k 0#8 := by
  simp [Memory.read_writeBytes hm (.inr h), hk]

/-- A step that stores at least two bytes from `PC + 2` upward is followed by the fetch of the first two of them, the
high one first (R43, R53): the tick after the store leaves memory and `PC` alone. -/
theorem fetchWord_after_store {s : State} {bytes : List Byte} (hm : Memory.wf s.mem = true)
    (hidx : s.index.toNat = s.pc.toNat + 2) (hlen : 2 ≤ bytes.length) (hb : s.index.toNat + bytes.length ≤ 4096) :
    fetchWord (s.setMem (Memory.writeBytes s.mem s.index.toNat bytes)).next.finish =
      .ok (wordOfBytes (bytes.getD 0 0#8) (bytes.getD 1 0#8)) := by
  have hpc : (s.pc + 2#16).toNat = s.index.toNat := by
    rw [BitVec.toNat_add, hidx]
    exact Nat.mod_eq_of_lt (show s.pc.toNat + 2 < 65536 by omega)
  have hhigh := Memory.read_writeBytes_add hm hb (show 0 < bytes.length by omega)
  have hlow := Memory.read_writeBytes_add hm hb (show 1 < bytes.length by omega)
  rw [fetchWord_ok (by simp only [State.finish_pc, State.next_pc, State.setMem_pc, hpc]; omega), ← hhigh, ← hlow]
  simp [State.readByte, hpc]

/-- The first two digits of a byte as a word: the hundreds in the high byte, the tens in the low one (R43, R193). -/
theorem toNat_wordOfBytes_bcdDigits (v : Byte) :
    (wordOfBytes ((bcdDigits v).getD 0 0#8) ((bcdDigits v).getD 1 0#8)).toNat =
      256 * (v.toNat / 100) + v.toNat / 10 % 10 := by
  have hv := v.isLt
  simp only [toNat_wordOfBytes, bcdDigits, List.getD_cons_zero, List.getD_cons_succ, BitVec.toNat_ofNat]
  omega

/-- Settles O46: either instruction stores from `I = PC + 2` upward, and the next fetch reads the first two bytes:
`V0` and `V1`, or the hundreds and the tens. -/
theorem storeIsSeenByNextFetch : Obligations.StoreIsSeenByNextFetch := by
  intro x s hm hrun hidx
  constructor
  · intro hfetch hx hb
    have hlen := s.length_regsUpTo x
    have hword := fetchWord_after_store hm hidx (bytes := s.regsUpTo x) (by omega) (by omega)
    have h0 : (s.regsUpTo x).getD 0 0#8 = s.reg 0 := s.getD_regsUpTo (Fin.zero_le x) 0#8
    have h1 : (s.regsUpTo x).getD 1 0#8 = s.reg 1 := s.getD_regsUpTo (k := 1) hx 0#8
    rw [h0, h1] at hword
    exact ⟨_, step_of_fetch hrun hfetch (exec_storeRegs_ok hb), hword⟩
  · intro hfetch hb
    have hword := fetchWord_after_store hm hidx (bytes := bcdDigits (s.reg x)) (show 2 ≤ 3 by decide) hb
    exact ⟨_, _, step_of_fetch hrun hfetch (exec_ldB_ok hb), hword, toNat_wordOfBytes_bcdDigits _⟩

end Sys2Proof.Machine
end

section
/-! PROOF. Encoding and decoding (30_encoding.md R60 to R68): the two are inverse on the well-formed instructions, and
the decoder agrees with the masks of the opcode map (R66) and with the list of illegal words (R68). -/

namespace Sys2Proof

/-! ### From an instruction to its word and back -/

/-- A family 0 word that is not CLS and not RET is SYS (R67). -/
theorem decodeFamily0_sys {w : Word} (h : sysOperandOk (fieldNNN w) = true) :
    decodeFamily0 w = .sys (fieldNNN w) := by
  simp only [sysOperandOk, Bool.and_eq_true, bne_iff_ne] at h
  obtain ⟨hcls, hret⟩ := h
  unfold decodeFamily0
  split
  · next hn => exact absurd hn hcls
  · next hn => exact absurd hn hret
  · rfl

/-- The decoder selects the family by `op` and the row by the low bits, and reads the operands from their fields. -/
theorem decodeWord_encode {i : Instr} (h : i.wellFormed = true) : decodeWord (encode i) = .ok i := by
  cases i with
  | cls | ret => rfl
  | sys nnn =>
    simp only [Instr.wellFormed] at h
    simp [encode, decodeWord, decodeFamily0_sys, h]
  | jp | call | ldI | jpV0 => simp [encode, decodeWord]
  | seImm | sneImm | ldImm | addImm | rnd => simp [encode, decodeWord]
  | drw => simp [encode, decodeWord, regBits]
  | seReg => simp [encode, decodeWord, decodeFamily5]
  | sneReg => simp [encode, decodeWord, decodeFamily9]
  | ldReg | orReg | andReg | xorReg | addReg | subReg | shr | subnReg | shl =>
    simp [encode, decodeWord, decodeFamily8]
  | skp | sknp => simp [encode, decodeWord, decodeFamilyE]
  | ldVxDT | ldVxK | ldDTVx | ldSTVx | addI | ldF | ldB | storeRegs | loadRegs =>
    simp [encode, decodeWord, decodeFamilyF]

/-- Decoding the bytes of an instruction is decoding its word, with the bytes after it left over (R60, R61). -/
theorem decode_encodeBytes {i : Instr} (h : i.wellFormed = true) (rest : List Byte) :
    decode (encodeBytes i ++ rest) = .ok (i, rest) := by
  simp [decode, encodeBytes, decodeWord_encode h]

/-- Settles O1: on words by family and row, on bytes because a word is its two bytes. -/
theorem encodedInstrDecodesBack : Obligations.EncodedInstrDecodesBack := fun _ h =>
  ⟨decodeWord_encode h, decode_encodeBytes h⟩

/-! ### From a word to its instruction and back -/

/-- A nibble is one of sixteen literals: the case split over the families, and over the rows of family 8. -/
theorem exists_nibble_eq (n : BitVec 4) : ∃ k < 16, n = BitVec.ofNat 4 k :=
  ⟨n.toNat, n.isLt, by simp⟩

/-! What a family of the decoder answers encodes to the family's `op` and the word's other fields. -/

section DecodeThenEncode

variable {w : Word} {i : Instr}

theorem encode_decodeFamily0 (w : Word) :
    encode (decodeFamily0 w) = wordNNN 0x0#4 (fieldNNN w) ∧ (decodeFamily0 w).wellFormed = true := by
  unfold decodeFamily0
  split
  · next hn => rw [hn]; exact ⟨rfl, rfl⟩
  · next hn => rw [hn]; exact ⟨rfl, rfl⟩
  · next hcls hret => exact ⟨rfl, Bool.and_eq_true_iff.2 ⟨bne_iff_ne.2 hcls, bne_iff_ne.2 hret⟩⟩

theorem encode_of_decodeFamily5 (h : decodeFamily5 w = .ok i) :
    encode i = wordXYN 0x5#4 (fieldX w) (fieldY w) (fieldN w) ∧ i.wellFormed = true := by
  unfold decodeFamily5 at h
  split at h
  · next hn => obtain rfl := Except.ok.inj h; exact ⟨by rw [hn, encode], rfl⟩
  · cases h

theorem encode_of_decodeFamily8 (h : decodeFamily8 w = .ok i) :
    encode i = wordXYN 0x8#4 (fieldX w) (fieldY w) (fieldN w) ∧ i.wellFormed = true := by
  unfold decodeFamily8 at h
  split at h
  case h_10 => cases h
  all_goals next hn => obtain rfl := Except.ok.inj h; exact ⟨by rw [hn, encode], rfl⟩

theorem encode_of_decodeFamily9 (h : decodeFamily9 w = .ok i) :
    encode i = wordXYN 0x9#4 (fieldX w) (fieldY w) (fieldN w) ∧ i.wellFormed = true := by
  unfold decodeFamily9 at h
  split at h
  · next hn => obtain rfl := Except.ok.inj h; exact ⟨by rw [hn, encode], rfl⟩
  · cases h

theorem encode_of_decodeFamilyE (h : decodeFamilyE w = .ok i) :
    encode i = wordXNN 0xE#4 (fieldX w) (fieldNN w) ∧ i.wellFormed = true := by
  unfold decodeFamilyE at h
  split at h
  case h_3 => cases h
  all_goals next hn => obtain rfl := Except.ok.inj h; exact ⟨by rw [hn, encode], rfl⟩

theorem encode_of_decodeFamilyF (h : decodeFamilyF w = .ok i) :
    encode i = wordXNN 0xF#4 (fieldX w) (fieldNN w) ∧ i.wellFormed = true := by
  unfold decodeFamilyF at h
  split at h
  case h_10 => cases h
  all_goals next hn => obtain rfl := Except.ok.inj h; exact ⟨by rw [hn, encode], rfl⟩

end DecodeThenEncode

/-- Settles O2: the encoder puts the fields back where the decoder found them, and a word is its fields. -/
theorem decodedInstrEncodesBack : Obligations.DecodedInstrEncodesBack := by
  intro w i h
  have hNNN := wordNNN_fields w
  have hXNN := wordXNN_fields w
  have hXYN := wordXYN_fields w
  obtain ⟨k, hk, hop⟩ := exists_nibble_eq (fieldOp w)
  rw [hop] at hNNN hXNN hXYN
  rw [decodeWord, hop] at h
  interval_cases k
  · exact Except.ok.inj h ▸ (encode_decodeFamily0 w).imp_left (·.trans hNNN)
  · exact Except.ok.inj h ▸ ⟨hNNN, rfl⟩
  · exact Except.ok.inj h ▸ ⟨hNNN, rfl⟩
  · exact Except.ok.inj h ▸ ⟨hXNN, rfl⟩
  · exact Except.ok.inj h ▸ ⟨hXNN, rfl⟩
  · exact (encode_of_decodeFamily5 h).imp_left (·.trans hXYN)
  · exact Except.ok.inj h ▸ ⟨hXNN, rfl⟩
  · exact Except.ok.inj h ▸ ⟨hXNN, rfl⟩
  · exact (encode_of_decodeFamily8 h).imp_left (·.trans hXYN)
  · exact (encode_of_decodeFamily9 h).imp_left (·.trans hXYN)
  · exact Except.ok.inj h ▸ ⟨hNNN, rfl⟩
  · exact Except.ok.inj h ▸ ⟨hNNN, rfl⟩
  · exact Except.ok.inj h ▸ ⟨hXNN, rfl⟩
  · exact Except.ok.inj h ▸ ⟨hXYN, rfl⟩
  · exact (encode_of_decodeFamilyE h).imp_left (·.trans hXNN)
  · exact (encode_of_decodeFamilyF h).imp_left (·.trans hXNN)

/-! ### The opcode map's masks (R66) -/

/-- Every instruction's word lies in the instruction's row of the opcode map. -/
theorem inOpcodeRow_encode (i : Instr) : inOpcodeRow (encode i) i = true :=
  open Laws.OpcodeRow in
  match i with
  | .cls => cls | .ret => ret | .sys _ => sys _ | .jp _ => jp _ | .call _ => call _
  | .seImm _ _ => seImm _ _ | .sneImm _ _ => sneImm _ _ | .seReg _ _ => seReg _ _
  | .ldImm _ _ => ldImm _ _ | .addImm _ _ => addImm _ _
  | .ldReg _ _ => ldReg _ _ | .orReg _ _ => orReg _ _ | .andReg _ _ => andReg _ _ | .xorReg _ _ => xorReg _ _
  | .addReg _ _ => addReg _ _ | .subReg _ _ => subReg _ _ | .shr _ _ => shr _ _
  | .subnReg _ _ => subnReg _ _ | .shl _ _ => shl _ _ | .sneReg _ _ => sneReg _ _
  | .ldI _ => ldI _ | .jpV0 _ => jpV0 _ | .rnd _ _ => rnd _ _ | .drw _ _ _ => drw _ _ _
  | .skp _ => skp _ | .sknp _ => sknp _ | .ldVxDT _ => ldVxDT _ | .ldVxK _ => ldVxK _
  | .ldDTVx _ => ldDTVx _ | .ldSTVx _ => ldSTVx _ | .addI _ => addI _ | .ldF _ => ldF _ | .ldB _ => ldB _
  | .storeRegs _ => storeRegs _ | .loadRegs _ => loadRegs _

/-- A word that decodes lies in the row of every instruction that shares the row of its own. -/
theorem inOpcodeRow_of_decodeWord {w : Word} {i j : Instr} (h : decodeWord w = .ok j)
    (hrow : opcodeRow j = opcodeRow i) : inOpcodeRow w i = true := by
  rw [← (decodedInstrEncodesBack w j h).1, inOpcodeRow, ← hrow]
  exact inOpcodeRow_encode j

/-! A mask that covers a field fixes the field. -/

section Masks

variable {w mask m : Word} (h : w &&& mask = m)
include h

theorem fieldOp_of_mask (hm : fieldOp mask = BitVec.allOnes 4) : fieldOp w = fieldOp m := by
  rw [← h, fieldOp, fieldOp, BitVec.extractLsb'_and, ← fieldOp, ← fieldOp, hm, BitVec.and_allOnes]

theorem fieldN_of_mask (hm : fieldN mask = BitVec.allOnes 4) : fieldN w = fieldN m := by
  rw [← h, fieldN, fieldN, BitVec.extractLsb'_and, ← fieldN, ← fieldN, hm, BitVec.and_allOnes]

theorem fieldNN_of_mask (hm : fieldNN mask = BitVec.allOnes 8) : fieldNN w = fieldNN m := by
  rw [← h, fieldNN, fieldNN, BitVec.extractLsb'_and, ← fieldNN, ← fieldNN, hm, BitVec.and_allOnes]

end Masks

/-- A word in the row of an instruction other than SYS decodes to an instruction of that row: the row's mask fixes the
fields that the decoder dispatches on. -/
theorem decodeWord_of_inOpcodeRow {w : Word} {i : Instr} (hsys : ∀ nnn, i ≠ .sys nnn)
    (h : inOpcodeRow w i = true) : ∃ j, decodeWord w = .ok j ∧ opcodeRow j = opcodeRow i := by
  have hand := beq_iff_eq.1 h
  cases i with
  | sys nnn => exact absurd rfl (hsys nnn)
  | cls | ret =>
    obtain rfl := (BitVec.and_allOnes (x := w)).symm.trans hand
    exact ⟨_, rfl, rfl⟩
  | jp | call | ldI | jpV0 | seImm | sneImm | ldImm | addImm | rnd | drw =>
    simp only [opcodeRow] at hand
    rw [decodeWord, fieldOp_of_mask hand rfl]
    exact ⟨_, rfl, rfl⟩
  | seReg | sneReg | ldReg | orReg | andReg | xorReg | addReg | subReg | shr | subnReg | shl =>
    simp only [opcodeRow] at hand
    rw [decodeWord, fieldOp_of_mask hand rfl, decodeFamily5, decodeFamily8, decodeFamily9, fieldN_of_mask hand rfl]
    exact ⟨_, rfl, rfl⟩
  | skp | sknp | ldVxDT | ldVxK | ldDTVx | ldSTVx | addI | ldF | ldB | storeRegs | loadRegs =>
    simp only [opcodeRow] at hand
    rw [decodeWord, fieldOp_of_mask hand rfl, decodeFamilyE, decodeFamilyF, fieldNN_of_mask hand rfl]
    exact ⟨_, rfl, rfl⟩

/-- The words of SYS are those of family 0 but the two of CLS and RET (R67). -/
theorem decodeWord_eq_sys_iff (w : Word) :
    (∃ m, decodeWord w = .ok (.sys m)) ↔ fieldOp w = 0x0#4 ∧ w ≠ 0x00E0#16 ∧ w ≠ 0x00EE#16 := by
  constructor
  · rintro ⟨m, h⟩
    obtain ⟨rfl, -⟩ := decodedInstrEncodesBack w _ h
    refine ⟨fieldOp_wordNNN _ _, fun he => ?_, fun he => ?_⟩ <;> rw [he] at h <;> cases Except.ok.inj h
  · rintro ⟨hop, hcls, hret⟩
    have hw := wordNNN_fields w
    rw [hop] at hw
    have hok : sysOperandOk (fieldNNN w) = true := by
      rw [sysOperandOk, Bool.and_eq_true, bne_iff_ne, bne_iff_ne]
      exact ⟨fun he => hcls (hw.symm.trans (he ▸ rfl)), fun he => hret (hw.symm.trans (he ▸ rfl))⟩
    rw [decodeWord, hop]
    exact ⟨fieldNNN w, congrArg _ (decodeFamily0_sys hok)⟩

/-- The SYS row holds the words of family 0. -/
theorem inOpcodeRow_sys_iff (w : Word) (nnn : Addr) : inOpcodeRow w (.sys nnn) = true ↔ fieldOp w = 0x0#4 := by
  rw [inOpcodeRow, opcodeRow, beq_iff_eq]
  refine ⟨fun h => fieldOp_of_mask h rfl, fun hop => ?_⟩
  rw [← wordNNN_fields w, hop]
  exact wordNNN_and _ _

/-- Settles O3: outside SYS a row's mask fixes what the decoder dispatches on, and encoding back gives the other
direction; for SYS both sides say that the word is of family 0 and neither that of CLS nor that of RET. -/
theorem decodeFollowsOpcodeMap : Obligations.DecodeFollowsOpcodeMap := by
  refine ⟨fun w i hsys => ⟨decodeWord_of_inOpcodeRow hsys, fun ⟨j, h, hrow⟩ => inOpcodeRow_of_decodeWord h hrow⟩,
    fun w nnn => ?_⟩
  rw [decodeWord_eq_sys_iff, inOpcodeRow_sys_iff]

/-! ### The illegal words (R68) -/

theorem toNat_fieldOp (w : Word) : (fieldOp w).toNat = w.toNat / 4096 := by
  have := w.isLt
  rw [fieldOp, BitVec.extractLsb'_toNat, Nat.shiftRight_eq_div_pow]
  exact Nat.mod_eq_of_lt (by omega)

theorem toNat_fieldNNN (w : Word) : (fieldNNN w).toNat = w.toNat % 4096 := by
  simp [fieldNNN]

theorem toNat_fieldN (w : Word) : (fieldN w).toNat = w.toNat % 16 := by
  simp [fieldN]

theorem toNat_fieldNN (w : Word) : (fieldNN w).toNat = w.toNat % 256 := by
  simp [fieldNN]

/-- What the decoder answered is an instruction that executes: any but SYS, the named slot that faults (R68, R100). -/
def executes : Except DecodeError Instr → Bool
  | .ok (.sys _) => false
  | .ok _ => true
  | .error _ => false

theorem executes_eq_false_iff {r : Except DecodeError Instr} :
    executes r = false ↔ ∀ i, r = .ok i → ∃ nnn, i = .sys nnn := by
  constructor
  · rintro h i rfl
    cases i with
    | sys nnn => exact ⟨nnn, rfl⟩
    | _ => cases h
  · intro h
    cases r with
    | error e => rfl
    | ok i =>
      obtain ⟨nnn, rfl⟩ := h i rfl
      rfl

/-! The words of each family with more than one row, or with illegal words, that execute. -/

section Executes

variable (w : Word)

theorem executes_decodeFamily0 :
    executes (.ok (decodeFamily0 w)) = [0x0E0, 0x0EE].contains (w.toNat % 4096) := by
  rw [← toNat_fieldNNN]
  unfold decodeFamily0
  split
  case h_3 => simp_all [executes, BitVec.toNat_eq_nat]
  all_goals next hn => rw [hn]; rfl

theorem executes_decodeFamily5 : executes (decodeFamily5 w) = (w.toNat % 16 == 0) := by
  obtain ⟨k, hk, hn⟩ := exists_nibble_eq (fieldN w)
  rw [← toNat_fieldN, decodeFamily5, hn]
  interval_cases k <;> rfl

theorem executes_decodeFamily8 :
    executes (decodeFamily8 w) = !([0x8, 0x9, 0xA, 0xB, 0xC, 0xD, 0xF].contains (w.toNat % 16)) := by
  obtain ⟨k, hk, hn⟩ := exists_nibble_eq (fieldN w)
  rw [← toNat_fieldN, decodeFamily8, hn]
  interval_cases k <;> rfl

theorem executes_decodeFamily9 : executes (decodeFamily9 w) = (w.toNat % 16 == 0) := by
  obtain ⟨k, hk, hn⟩ := exists_nibble_eq (fieldN w)
  rw [← toNat_fieldN, decodeFamily9, hn]
  interval_cases k <;> rfl

theorem executes_decodeFamilyE : executes (decodeFamilyE w) = [0x9E, 0xA1].contains (w.toNat % 256) := by
  rw [← toNat_fieldNN]
  unfold decodeFamilyE
  split
  case h_3 => simp_all [executes, BitVec.toNat_eq_nat]
  all_goals next hn => rw [hn]; rfl

theorem executes_decodeFamilyF :
    executes (decodeFamilyF w) =
      [0x07, 0x0A, 0x15, 0x18, 0x1E, 0x29, 0x33, 0x55, 0x65].contains (w.toNat % 256) := by
  rw [← toNat_fieldNN]
  unfold decodeFamilyF
  split
  case h_10 => simp_all [executes, BitVec.toNat_eq_nat]
  all_goals next hn => rw [hn]; rfl

end Executes

/-- Family by family, the list of R68 is the complement of the words that decode to an executing instruction. -/
theorem illegalWord_eq_not_executes (w : Word) : Machine.illegalWord w = !executes (decodeWord w) := by
  obtain ⟨k, hk, hop⟩ := exists_nibble_eq (fieldOp w)
  have hdiv : w.toNat / 4096 = k := by rw [← toNat_fieldOp, hop, BitVec.toNat_ofNat, Nat.mod_eq_of_lt hk]
  rw [Machine.illegalWord, decodeWord, hop, hdiv]
  interval_cases k
  · have hmod : w.toNat % 4096 = w.toNat := by omega
    simp [executes_decodeFamily0, hmod, bne, Bool.beq_eq_decide_eq]
  · rfl
  · rfl
  · rfl
  · rfl
  · simp [executes_decodeFamily5, bne]
  · rfl
  · rfl
  · simp [executes_decodeFamily8]
  · simp [executes_decodeFamily9, bne]
  · rfl
  · rfl
  · rfl
  · rfl
  · simp [executes_decodeFamilyE]
  · simp [executes_decodeFamilyF]

/-- Settles O4: a word is on the list exactly when what it decodes to does not execute. -/
theorem illegalWordsAreThoseListed : Obligations.IllegalWordsAreThoseListed := by
  intro w
  rw [illegalWord_eq_not_executes, Bool.not_eq_true', executes_eq_false_iff]

/-! ### The words of the test vectors -/

/-- Settles O5: each word is one evaluation of the decoder. -/
theorem specWordsDecode : Obligations.SpecWordsDecode := by
  unfold Obligations.SpecWordsDecode
  decide

end Sys2Proof
end

section
/-! PROOF. The step cycle (30_encoding.md R80 to R84): what the fetch and the decode of a running machine lead to, and
that a step always answers and faults precisely. -/

namespace Sys2Proof.Machine

/-! ### The three ways through a step -/

section Step

variable {s : State}

/-- A fault of the fetch or the decode is the whole step (R83). -/
theorem step_of_fetch_error {c : Cause} (hrun : s.status = .running) (hf : fetchInstr s = .error c) :
    step s = .next (s.faultedBy c) := by
  simp only [step, hrun, hf]
  rfl

/-- An instruction's own fault is the whole step: the state it leaves is faulted, so no tick follows (R83). -/
theorem step_of_exec_fault {i : Instr} {c : Cause} (hrun : s.status = .running) (hf : fetchInstr s = .ok i)
    (he : exec i s = takeFault c s) : step s = .next (s.faultedBy c) :=
  step_of_fetch hrun hf he

end Step

/-- Settles O9: the step asks for `status` first. -/
theorem faultedMachineDoesNothing : Obligations.FaultedMachineDoesNothing := by
  intro s c h
  rw [step, h]

/-- Every step answers a next state. -/
theorem step_answers (s : State) : ∃ t, step s = .next t := by
  cases hs : s.status with
  | faulted c => exact ⟨s, faultedMachineDoesNothing s c hs⟩
  | running =>
    cases hf : fetchInstr s with
    | error c => exact ⟨_, step_of_fetch_error hs hf⟩
    | ok i =>
      obtain ⟨u, he⟩ := exec_answers i s
      exact ⟨_, step_of_fetch hs hf he⟩

/-- Settles O10: of the three things a step can have done, only the fault entry leaves a running machine faulted. -/
theorem everyStepAnswersAndFaultsPrecisely : Obligations.EveryStepAnswersAndFaultsPrecisely := by
  intro s
  obtain ⟨t, h⟩ := step_answers s
  refine ⟨t, h, fun c hrun ht => ?_⟩
  obtain rfl | ⟨c', rfl⟩ | ⟨i, u, -, hc, rfl⟩ := step_completes h
  · cases hrun.symm.trans ht
  · obtain rfl := Status.faulted.inj ht
    rfl
  · rw [State.finish_status, hc.status, hrun] at ht
    cases ht

/-! ### From the fetch to the step -/

section Fetch

variable {s : State} {w : Word}

theorem fetchInstr_of_decode_ok {i : Instr} (hf : fetchWord s = .ok w) (hd : decodeWord w = .ok i) :
    fetchInstr s = .ok i := by
  simp only [fetchInstr, hf, hd]

theorem fetchInstr_of_decode_error {e : DecodeError} (hf : fetchWord s = .ok w) (hd : decodeWord w = .error e) :
    fetchInstr s = .error (.decodeFault w) := by
  simp only [fetchInstr, hf, hd]

theorem fetchInstr_of_fetch_error {c : Cause} (hf : fetchWord s = .error c) : fetchInstr s = .error c := by
  simp only [fetchInstr, hf]

/-- A fetch that reaches address 4096 faults with the lowest address out of range (R61, R203). -/
theorem step_of_pc_out_of_range (hrun : s.status = .running) (hpc : 4096 ≤ s.pc.toNat + 1) :
    step s = .next (s.faultedBy (.bounds .fetch (max 4096 s.pc.toNat))) :=
  step_of_fetch_error hrun (fetchInstr_of_fetch_error (fetchWord_error hpc))

end Fetch

/-- Decoding the two bytes of a word is decoding the word (R60, R61). -/
theorem decodeWord_of_decode {hi lo : Byte} {i : Instr} (h : decode [hi, lo] = .ok (i, [])) :
    decodeWord (wordOfBytes hi lo) = .ok i := by
  rw [decode] at h
  split at h
  · next j hd => obtain ⟨rfl, -⟩ := Prod.mk.inj (Except.ok.inj h); exact hd
  · cases h

/-- Settles O6: what follows the instruction is the tick or nothing, as it left `status`. -/
theorem stepRunsDecodedInstr : Obligations.StepRunsDecodedInstr := by
  intro s i hrun hpc hdec
  have hfetch := fetchInstr_of_decode_ok (fetchWord_ok hpc) (decodeWord_of_decode hdec)
  obtain ⟨t, he⟩ := exec_answers i s
  have hstep := step_of_fetch hrun hfetch he
  refine ⟨t, he, fun ht => ?_, fun c ht => ?_⟩
  · rw [hstep, finish_of_running ht]
    rfl
  · rw [hstep, finish_of_faulted ht]

theorem extractLsb'_wordOfBytes_high (hi lo : Byte) : (wordOfBytes hi lo).extractLsb' 8 8 = hi := by
  refine BitVec.eq_of_getLsbD_eq fun k hk => ?_
  rw [BitVec.getLsbD_extractLsb', getLsbD_wordOfBytes]
  simp [hk]

theorem extractLsb'_wordOfBytes_low (hi lo : Byte) : (wordOfBytes hi lo).extractLsb' 0 8 = lo := by
  refine BitVec.eq_of_getLsbD_eq fun k hk => ?_
  rw [BitVec.getLsbD_extractLsb', getLsbD_wordOfBytes]
  simp [hk]

/-- Settles O7: inside the memory the word is its two bytes; the two faults are the one bounds check. -/
theorem fetchIsBigEndianAndBounded : Obligations.FetchIsBigEndianAndBounded := by
  intro s
  refine ⟨fun hpc => ?_, fun hrun hpc => ?_, fun hrun hpc => ?_⟩
  · exact ⟨_, fetchWord_ok hpc, extractLsb'_wordOfBytes_high _ _, extractLsb'_wordOfBytes_low _ _⟩
  · rw [step_of_pc_out_of_range hrun (by omega), Nat.max_eq_right hpc]
  · rw [step_of_pc_out_of_range hrun (by omega), hpc, Nat.max_eq_left (by decide)]

/-- Settles O8: an illegal word decodes to nothing, which is a decode fault, or to SYS, whose own fault records the
word that SYS encodes to, the word fetched. -/
theorem illegalWordFaults : Obligations.IllegalWordFaults := by
  intro s w hrun hf hill
  cases hd : decodeWord w with
  | error e => exact step_of_fetch_error hrun (fetchInstr_of_decode_error hf hd)
  | ok i =>
    obtain ⟨nnn, rfl⟩ := (illegalWordsAreThoseListed w).1 hill i hd
    obtain ⟨hw, -⟩ := decodedInstrEncodesBack w _ hd
    have hfault : exec (.sys nnn) s = takeFault (.decodeFault w) s := by rw [exec, execSys, hw]
    exact step_of_exec_fault hrun (fetchInstr_of_decode_ok hf hd) hfault

end Sys2Proof.Machine
end

section
/-! PROOF. Control transfer (40_control.md): where SYS, RET, JP, CALL, the four register skips and JP V0 leave `PC` and
the stack, and that they change nothing else. -/

namespace Sys2Proof

/-! ### The low nibble of families 5 and 9 (R106, R107, D4)

The hypothesis rules out the one row of the family, which leaves its error arm. -/

theorem decodeWord_family5_error (x y : Reg) {n : BitVec 4} (hn : n ≠ 0#4) :
    decodeWord (wordXYN 0x5#4 x y n) = .error (.family5 (wordXYN 0x5#4 x y n)) := by
  simp only [decodeWord, fieldOp_wordXYN, decodeFamily5, fieldN_wordXYN]

theorem decodeWord_family9_error (x y : Reg) {n : BitVec 4} (hn : n ≠ 0#4) :
    decodeWord (wordXYN 0x9#4 x y n) = .error (.family9 (wordXYN 0x9#4 x y n)) := by
  simp only [decodeWord, fieldOp_wordXYN, decodeFamily9, fieldN_wordXYN]

namespace Machine

/-! ### Frames: what a chain of state operations keeps -/

section Frames

variable {f : Footprint} {s t : State}

theorem Keeps.refl (f : Footprint) (s : State) : Keeps f s s where
  regs _ _ := rfl
  bytes _ _ := rfl
  index _ := rfl
  calls _ := ⟨rfl, rfl⟩
  delay _ := rfl
  sound _ := rfl
  screen _ := ⟨rfl, rfl⟩
  draws _ := rfl
  keys := rfl
  status := rfl

/-- `PC` is in no footprint, so writing it keeps what was kept. -/
theorem Keeps.setPc (h : Keeps f s t) (v : Word) : Keeps f s (t.setPc v) := { h with }

/-- The stack and `SP` may change where the footprint names them. -/
theorem Keeps.withStack (h : Keeps f s t) (hf : f.calls = true) (stack : Vector Word 16) (sp : Fin 17) :
    Keeps f s { t with stack := stack, sp := sp } :=
  { h with calls := fun hn => absurd (hf.symm.trans hn) (by decide) }

/-- A skip writes `PC` alone, on either outcome of its test. -/
theorem Keeps.skipIf (h : Keeps f s t) (test : Bool) : Keeps f s (t.skipIf test) := by
  cases test with
  | true => exact h.setPc _
  | false => exact h.setPc _

end Frames

/-! ### SYS and the jumps -/

/-- Settles O12: SYS is the fault entry with the word it encodes to, `0nnn`. -/
theorem sysTakesDecodeFault : Obligations.SysTakesDecodeFault := fun nnn s =>
  takeFault_eq (.decodeFault (wordNNN 0x0#4 nnn)) s

/-- Settles O14: the address is widened to 16 bits, which keeps its value, and `PC` alone is written. -/
theorem jpSetsPc : Obligations.JpSetsPc := fun nnn s =>
  ⟨_, rfl, toNat_zextAddr nnn, (Keeps.refl _ s).setPc _⟩

/-- Settles O19: a 12-bit address plus a byte does not reach 65536, so the 16-bit sum is the sum of the numbers. -/
theorem jpV0AddsOffset : Obligations.JpV0AddsOffset := fun nnn s =>
  ⟨_, rfl, toNat_offsetTarget nnn (s.reg V0), (Keeps.refl _ s).setPc _⟩

/-! ### Calls and returns -/

section Calls

variable {s : State}

theorem exec_ret_ok (h : s.sp.val ≠ 0) :
    exec .ret s = .next ({ s with sp := ⟨s.sp.val - 1, Nat.lt_of_le_of_lt (Nat.sub_le _ _) s.sp.isLt⟩ }.setPc
      (s.stack[s.sp.val - 1]'(Nat.lt_of_lt_of_le (Nat.sub_one_lt h) s.sp_le))) := by
  rw [exec, execRet, pop_ok h]

theorem exec_ret_empty (h : s.sp.val = 0) : exec .ret s = takeFault (.bounds .stackUnderflow 0) s := by
  rw [exec, execRet, pop_empty h]

theorem exec_call_ok (nnn : Addr) (h : s.sp.val < 16) :
    exec (.call nnn) s = .next ({ s with
      stack := s.stack.set s.sp.val (s.pc + 2#16) h
      sp := ⟨s.sp.val + 1, Nat.succ_lt_succ h⟩ }.setPc (zextAddr nnn)) := by
  rw [exec, execCall, push_ok _ h, nextAddress_eq]

theorem exec_call_full (nnn : Addr) (h : s.sp.val = 16) :
    exec (.call nnn) s = takeFault (.bounds .stackOverflow 16) s := by
  rw [exec, execCall, push_full _ h]

end Calls

/-- Settles O13: the pop reads the slot below `SP` and writes `SP` alone; the empty stack is the fault entry. -/
theorem retPopsReturnAddress : Obligations.RetPopsReturnAddress := by
  intro s
  refine ⟨fun hsp => ?_, fun hsp => exec_ret_empty hsp⟩
  refine ⟨_, exec_ret_ok hsp, Nat.sub_one_add_one hsp, ?_, rfl, ((Keeps.refl _ s).withStack rfl _ _).setPc _⟩
  exact Vector.getElem?_eq_getElem _

/-- Settles O15: the push writes slot `SP` and `SP`; the full stack is the fault entry. -/
theorem callPushesNextAddress : Obligations.CallPushesNextAddress := by
  intro nnn s
  refine ⟨fun hsp => ?_, fun hsp => exec_call_full nnn hsp⟩
  refine ⟨_, exec_call_ok nnn hsp, rfl, Vector.getElem?_set_self hsp, fun k hk => ?_, toNat_zextAddr nnn,
    ((Keeps.refl _ s).withStack rfl _ _).setPc _⟩
  exact Vector.getElem_set_ne hsp k.isLt (Ne.symm hk)

/-- Settles O16: the slot that the RET pops, below the `SP` that the CALL left, is the slot that the CALL wrote. -/
theorem callThenReturnResumes : Obligations.CallThenReturnResumes := by
  intro nnn s t u hsp hcall hdepth hstack
  obtain rfl := Host.Outcome.next.inj ((exec_call_ok nnn hsp).symm.trans hcall)
  have hu : u.sp.val = s.sp.val + 1 := congrArg Fin.val hdepth
  refine ⟨_, exec_ret_ok (by omega), ?_, ?_⟩
  · simp [hstack, hu]
  · simp [hu]

/-! ### The register skips -/

/-- A skip on a test for `p`: `PC` goes up by 4 when `p` holds and by 2 otherwise, and nothing else changes (R82). -/
theorem skipIf_spec (s : State) {test : Bool} {p : Prop} [Decidable p] (h : test = true ↔ p) :
    (s.skipIf test).pc = (if p then s.pc + 4#16 else s.pc + 2#16) ∧ Keeps {} s (s.skipIf test) := by
  refine ⟨?_, (Keeps.refl _ s).skipIf test⟩
  simp only [State.skipIf_pc, h]

/-- Settles O17: the two tests are those for equality and for inequality. -/
theorem skipsCompareImmediate : Obligations.SkipsCompareImmediate := fun _ _ s =>
  ⟨⟨_, rfl, skipIf_spec s beq_iff_eq⟩, ⟨_, rfl, skipIf_spec s bne_iff_ne⟩⟩

/-- Settles O18: the two tests are those for equality and for inequality; a low nibble other than 0 is a decode
error of its family. -/
theorem skipsCompareRegisters : Obligations.SkipsCompareRegisters := by
  intro x y s
  refine ⟨⟨_, rfl, skipIf_spec s beq_iff_eq⟩, ⟨_, rfl, skipIf_spec s bne_iff_ne⟩, fun n hn => ⟨?_, ?_⟩⟩
  · simp [decodeWord_family5_error x y hn]
  · simp [decodeWord_family9_error x y hn]

end Machine

end Sys2Proof
end

section
/-! PROOF. Immediates (41_immediate.md): LD Vx, nn and ADD Vx, nn write `V[x]` and advance `PC`, and write no flag. -/

namespace Sys2Proof.Machine

/-- A register may change where the footprint names it. -/
theorem Keeps.setReg {f : Footprint} {s t : State} (h : Keeps f s t) {x : Reg} (hx : x ∈ f.regs) (v : Byte) :
    Keeps f s (t.setReg x v) :=
  { h with
    regs := fun r hr => by
      have hne : r ≠ x := fun he => hr (he ▸ hx)
      rw [State.reg_setReg_of_ne t v hne, h.regs r hr] }

/-- What every instruction that ends in a plain register write does: the value is in `V[x]`, `PC` goes up by 2, and
nothing else changes (R82). -/
theorem setReg_next_spec (s : State) (x : Reg) (v : Byte) :
    (s.setReg x v).next.reg x = v ∧ (s.setReg x v).next.pc = s.pc + 2#16 ∧
      Keeps { regs := [x] } s (s.setReg x v).next :=
  ⟨State.reg_setReg_self s x v, rfl, ((Keeps.refl _ s).setReg (List.mem_singleton.2 rfl) v).setPc _⟩

/-- The complement `(256 - nn) mod 256` of R121 is the negation of `nn`. -/
theorem eq_neg_of_toNat_eq_complement {m nn : Byte} (h : m.toNat = (256 - nn.toNat) % 256) : m = -nn :=
  BitVec.eq_of_toNat_eq (h.trans (BitVec.toNat_neg nn).symm)

/-- Settles O20: LD Vx, nn is a plain register write, for `x = 15` too. -/
theorem ldImmSetsRegister : Obligations.LdImmSetsRegister := fun x nn s =>
  ⟨_, rfl, setReg_next_spec s x nn⟩

/-- Settles O21: ADD Vx, nn is a plain register write of the 8-bit sum. The second addition adds `-nn` to that sum,
which gives the old `V[x]`; no other register is written by either. -/
theorem addImmWrapsWithoutFlag : Obligations.AddImmWrapsWithoutFlag := by
  intro x nn s
  obtain ⟨hreg, hpc, hkeeps⟩ := setReg_next_spec s x (s.reg x + nn)
  refine ⟨_, rfl, ?_, hpc, hkeeps, fun m hm => ⟨_, rfl, fun r => ?_⟩⟩
  · rw [hreg]
    exact BitVec.toNat_add _ _
  · obtain rfl := eq_neg_of_toNat_eq_complement hm
    by_cases hr : r = x
    · subst hr
      rw [State.next_reg, State.reg_setReg_self, hreg, BitVec.add_neg_eq_sub, BitVec.add_sub_cancel]
    · rw [State.next_reg, State.reg_setReg_of_ne _ _ hr]
      exact hkeeps.regs r (by simpa using hr)

end Sys2Proof.Machine
end

section
/-! PROOF. Register-register ALU (42_alu.md): LD, OR, AND and XOR are plain register writes; the arithmetic and the
shifts write `V[x]`, then the flag into VF. -/

namespace Sys2Proof.Machine

/-! ### LD and the bitwise operations (R131 to R134) -/

/-- Settles O22: LD Vx, Vy is a plain register write of the old `V[y]`. -/
theorem ldRegCopies : Obligations.LdRegCopies := fun x y s =>
  ⟨_, rfl, setReg_next_spec s x (s.reg y)⟩

/-- A plain register write, seen one bit of `V[x]` at a time. -/
theorem setReg_next_bits (s : State) (x : Reg) {v : Byte} {bit : Nat → Bool} (hv : ∀ k, v.getLsbD k = bit k) :
    (∀ k, ((s.setReg x v).next.reg x).getLsbD k = bit k) ∧ (s.setReg x v).next.pc = s.pc + 2#16 ∧
      Keeps { regs := [x] } s (s.setReg x v).next := by
  obtain ⟨hreg, hpc, hkeeps⟩ := setReg_next_spec s x v
  exact ⟨fun k => hreg.symm ▸ hv k, hpc, hkeeps⟩

/-- Settles O23: the three are plain register writes of the bitwise or, and, exclusive or of the old values; VF is
written only as the destination. -/
theorem logicOpsLeaveFlag : Obligations.LogicOpsLeaveFlag := fun x _ s =>
  ⟨⟨_, rfl, setReg_next_bits s x fun _ => BitVec.getLsbD_or⟩,
    ⟨_, rfl, setReg_next_bits s x fun _ => BitVec.getLsbD_and⟩,
    ⟨_, rfl, setReg_next_bits s x fun _ => BitVec.getLsbD_xor⟩⟩

/-! ### The write of a result and a flag (R130) -/

/-- What every instruction that ends in a result and a flag does: the result is in `V[x]` unless the flag replaced it,
the flag is in VF, `PC` goes up by 2, and nothing else changes. -/
theorem setRegFlag_next_spec (s : State) (x : Reg) {v f : Byte} {n : Nat} {flag : Bool} (hv : v.toNat = n)
    (hf : flagByte flag = f) :
    (x ≠ VF → ((s.setRegFlag x v flag).next.reg x).toNat = n) ∧ (s.setRegFlag x v flag).next.reg VF = f ∧
      (s.setRegFlag x v flag).next.pc = s.pc + 2#16 ∧
      Keeps { regs := [x, VF] } s (s.setRegFlag x v flag).next := by
  refine ⟨fun hx => ?_, ?_, rfl, ?_⟩
  · rw [State.next_reg, State.reg_setRegFlag, if_neg hx, if_pos rfl, hv]
  · rw [State.next_reg, State.reg_setRegFlag, if_pos rfl, hf]
  · exact (((Keeps.refl _ s).setReg (by simp) v).setReg (by simp) (flagByte flag)).setPc _

/-! ### Addition and subtraction (R135, R136, R138) -/

theorem flagByte_decide (p : Prop) [Decidable p] : flagByte (decide p) = if p then 1#8 else 0#8 := by
  simp only [flagByte, decide_eq_true_eq]

theorem flagByte_carryOut (a b : Byte) :
    flagByte (carryOut a b) = if a.toNat + b.toNat > 255 then 1#8 else 0#8 :=
  flagByte_decide _

theorem flagByte_noBorrow (a b : Byte) : flagByte (noBorrow a b) = if a.toNat ≥ b.toNat then 1#8 else 0#8 :=
  flagByte_decide _

theorem toNat_byte_sub (a b : Byte) : (a - b).toNat = (a.toNat + 256 - b.toNat) % 256 := by
  rw [BitVec.toNat_sub]
  omega

/-- Settles O24: the 8-bit sum is the sum modulo 256, and the flag is the carry of the old values. -/
theorem addRegSetsCarry : Obligations.AddRegSetsCarry := fun x _ s =>
  ⟨_, rfl, setRegFlag_next_spec s x (BitVec.toNat_add _ _) (flagByte_carryOut _ _)⟩

/-- Settles O25: the minuend is the old `V[x]`. -/
theorem subRegSetsNoBorrow : Obligations.SubRegSetsNoBorrow := fun x _ s =>
  ⟨_, rfl, setRegFlag_next_spec s x (toNat_byte_sub _ _) (flagByte_noBorrow _ _)⟩

/-- Settles O26: as for SUB, with the old `V[y]` as the minuend. -/
theorem subnRegSetsNoBorrow : Obligations.SubnRegSetsNoBorrow := fun x _ s =>
  ⟨_, rfl, setRegFlag_next_spec s x (toNat_byte_sub _ _) (flagByte_noBorrow _ _)⟩

/-! ### The shifts (R137, R139) -/

theorem toNat_flagByte (b : Bool) : (flagByte b).toNat = b.toNat := by
  cases b with
  | false => rfl
  | true => rfl

theorem toNat_lowBit (a : Byte) : (lowBit a).toNat = a.toNat % 2 := by
  rw [lowBit, BitVec.getLsbD, Nat.toNat_testBit, pow_zero, Nat.div_one]

/-- Bit 7 is the topmost of a byte: nothing is left above it. -/
theorem toNat_highBit (a : Byte) : (highBit a).toNat = a.toNat / 128 := by
  rw [highBit, BitVec.getLsbD, Nat.toNat_testBit]
  omega

theorem toNat_byte_shiftRight_one (a : Byte) : (a >>> 1).toNat = a.toNat / 2 := by
  rw [BitVec.toNat_ushiftRight, Nat.shiftRight_one]

theorem toNat_byte_shiftLeft_one (a : Byte) : (a <<< 1).toNat = 2 * a.toNat % 256 := by
  rw [BitVec.toNat_shiftLeft, Nat.shiftLeft_eq, pow_one, Nat.mul_comm]

/-- Settles O27: SHR is a division by 2 that exposes the remainder, SHL a doubling modulo 256 that exposes the top
bit; neither meaning mentions `y`. -/
theorem shiftsExposeBit : Obligations.ShiftsExposeBit := by
  intro x _ s
  obtain ⟨hhalf, hlow, hpcR, hkeepsR⟩ :=
    setRegFlag_next_spec s x (toNat_byte_shiftRight_one (s.reg x)) (flag := lowBit (s.reg x)) rfl
  obtain ⟨hdouble, hhigh, hpcL, hkeepsL⟩ :=
    setRegFlag_next_spec s x (toNat_byte_shiftLeft_one (s.reg x)) (flag := highBit (s.reg x)) rfl
  refine ⟨⟨_, rfl, hhalf, ?_, hpcR, hkeepsR⟩, ⟨_, rfl, hdouble, ?_, hpcL, hkeepsL⟩⟩
  · rw [hlow, toNat_flagByte, toNat_lowBit]
  · rw [hhigh, toNat_flagByte, toNat_highBit]

end Sys2Proof.Machine
end

section
/-! PROOF. The index register (43_index.md): LD I, ADD I and LD F write `I` and advance `PC`; ADD I writes VF last, and
LD F faults on a value that is no digit. -/

namespace Sys2Proof.Machine

/-- `I` may change where the footprint names it. -/
theorem Keeps.setIndex {f : Footprint} {s t : State} (h : Keeps f s t) (hf : f.index = true) (v : Word) :
    Keeps f s (t.setIndex v) :=
  { h with index := fun hn => absurd (hf.symm.trans hn) (by decide) }

/-- What every instruction that ends in a plain write of `I` does: the value is in `I`, `PC` goes up by 2, and nothing
else changes (R82). -/
theorem setIndex_next_spec (s : State) {v : Word} {n : Nat} (hv : v.toNat = n) :
    (s.setIndex v).next.index.toNat = n ∧ (s.setIndex v).next.pc = s.pc + 2#16 ∧
      Keeps { index := true } s (s.setIndex v).next :=
  ⟨hv, rfl, ((Keeps.refl _ s).setIndex rfl v).setPc _⟩

/-- Settles O28: LD I is a plain write of `I`, and the widened address is the same number. -/
theorem ldISetsIndex : Obligations.LdISetsIndex := fun nnn s =>
  ⟨_, rfl, setIndex_next_spec s (toNat_zextAddr nnn)⟩

/-! ### ADD I (R151) -/

/-- The sum that ADD I writes is reduced modulo 65536 only (D9). -/
theorem toNat_add_zextByte (i : Word) (a : Byte) : (i + zextByte a).toNat = (i.toNat + a.toNat) % 65536 := by
  rw [BitVec.toNat_add, toNat_zextByte]

theorem flagByte_indexOverflow (i : Word) (a : Byte) :
    flagByte (indexOverflow i a) = if i.toNat + a.toNat > 0x0FFF then 1#8 else 0#8 :=
  flagByte_decide _

/-- Settles O29: sum and flag are computed from the old `I` and `V[x]`, and the flag is the last write, for `x = 15`
too. -/
theorem addISetsOverflow : Obligations.AddISetsOverflow := by
  intro x s
  refine ⟨_, rfl, toNat_add_zextByte s.index (s.reg x), ?_, rfl, ?_⟩
  · rw [State.next_reg, State.reg_setReg_self, flagByte_indexOverflow]
  · exact (((Keeps.refl _ s).setIndex rfl _).setReg (List.mem_singleton.2 rfl) _).setPc _

/-! ### LD F (R152) -/

theorem exec_ldF_ok {x : Reg} {s : State} (h : (s.reg x).toNat < 16) :
    exec (.ldF x) s = .next (s.setIndex (glyphAddress ⟨(s.reg x).toNat, h⟩)).next := by
  rw [exec, execLdF, checkIndex_ok h]

theorem exec_ldF_fault {x : Reg} {s : State} (h : ¬ (s.reg x).toNat < 16) :
    exec (.ldF x) s = takeFault (.bounds .glyphIndex (s.reg x).toNat) s := by
  rw [exec, execLdF, checkIndex_error h]

/-- Settles O30: a digit passes the check and `I` gets its glyph's address; a value above 15 is the fault entry. -/
theorem ldFPointsAtGlyph : Obligations.LdFPointsAtGlyph := by
  intro x s
  refine ⟨fun hdigit => ?_, fun habove => exec_ldF_fault (Nat.not_lt.2 habove)⟩
  exact ⟨_, exec_ldF_ok (Nat.lt_succ_of_le hdigit), setIndex_next_spec s (toNat_glyphAddress _)⟩

end Sys2Proof.Machine
end

section
/-! PROOF. The random number (44_random.md): RND writes the masked draw to `V[x]`, counts the draw and advances `PC`,
and nothing is assumed of the value drawn. -/

namespace Sys2Proof.Machine

/-- The count of draws may change where the footprint names it. -/
theorem Keeps.countDraw {f : Footprint} {s t : State} (h : Keeps f s t) (hf : f.draws = true) :
    Keeps f s t.countDraw :=
  { h with draws := fun hn => absurd (hf.symm.trans hn) (by decide) }

/-- No bit outside the mask survives it. -/
theorem and_mask_and_not_mask (r nn : Byte) : (r &&& nn) &&& ~~~nn = 0#8 := by
  rw [BitVec.and_assoc, BitVec.and_not_self]
  exact BitVec.and_zero

/-- Settles O31: the draw stays an arbitrary byte; the write to `V[x]` and the count are the whole effect besides
`PC`. -/
theorem rndMasksDraw : Obligations.RndMasksDraw := by
  intro x nn s
  have hreg : ((s.setReg x (nextDraw s &&& nn)).countDraw).next.reg x = Config.draw s.draws &&& nn := by
    rw [State.next_reg, State.countDraw_reg, State.reg_setReg_self, nextDraw]
  refine ⟨_, rfl, hreg, ?_, rfl, rfl, ?_⟩
  · rw [hreg, and_mask_and_not_mask]
  · exact (((Keeps.refl _ s).setReg (List.mem_singleton.2 rfl) _).countDraw rfl).setPc _

end Sys2Proof.Machine
end

section
/-! PROOF. The display (45_draw.md): CLS and DRW write the framebuffer and `redraw` and advance `PC`; DRW toggles the
pixels the sprite covers and writes the collision into VF. -/

namespace Sys2Proof.Machine

/-- The framebuffer and `redraw` may change where the footprint names them. -/
theorem Keeps.setScreen {f : Footprint} {s t : State} (h : Keeps f s t) (hf : f.screen = true) (fb : Screen) :
    Keeps f s (t.setScreen fb) :=
  { h with screen := fun hn => absurd (hf.symm.trans hn) (by decide) }

/-- Settles O32: CLS is the write of the blank screen, which sets `redraw` with it. -/
theorem clsBlanksScreen : Obligations.ClsBlanksScreen := fun s =>
  ⟨_, rfl, pixelOf_blankScreen, rfl, rfl, ((Keeps.refl _ s).setScreen rfl blankScreen).setPc _⟩

/-! ### The two outcomes of DRW (R172) -/

/-- The state in which a DRW that does not fault completes. -/
def State.afterDrw (s : State) (x y : Reg) (n : Fin 16) : State :=
  let drawn := composite s.fb (s.reg x) (s.reg y) (s.spriteRows n.val)
  ((s.setScreen drawn.1).setReg VF (flagByte drawn.2)).next

section Drw

variable (s : State) (x y : Reg) (n : Fin 16)

/-- With its sprite bytes in the memory, or none of them, DRW completes. -/
theorem exec_drw_ok (h : n.val = 0 ∨ s.index.toNat + n.val ≤ 4096) :
    exec (.drw x y n) s = .next (s.afterDrw x y n) := by
  rw [exec, execDrw, readFromIndex_ok h]
  rfl

/-- With a sprite byte at 4096 or above, DRW is the fault entry of the read (D17). -/
theorem exec_drw_fault (hn : n.val ≠ 0) (h : 4096 < s.index.toNat + n.val) :
    exec (.drw x y n) s = takeFault (.bounds .memRead (max 4096 s.index.toNat)) s := by
  rw [exec, execDrw, readFromIndex_error hn h]

/-! ### A completed draw -/

theorem afterDrw_keeps : Keeps { regs := [VF], screen := true } s (s.afterDrw x y n) :=
  (((Keeps.refl _ s).setScreen rfl _).setReg (List.mem_singleton.2 rfl) _).setPc _

theorem reg_VF_afterDrw : (s.afterDrw x y n).reg VF =
    flagByte (composite s.fb (s.reg x) (s.reg y) (s.spriteRows n.val)).2 := by
  rw [State.afterDrw, State.next_reg, State.reg_setReg_self]

/-- A sprite of height 0 has no rows to composite (D24). -/
theorem spriteRows_of_height_zero {n : Fin 16} (hn : n.val = 0) : s.spriteRows n.val = [] := by
  rw [hn, State.spriteRows, Memory.readBytes]

/-- A sprite is not taller than the screen, so it does not cover a pixel twice. -/
theorem length_spriteRows_le : (s.spriteRows n.val).length ≤ 32 := by
  rw [State.spriteRows, Memory.length_readBytes]
  omega

variable {s x y n} {px : Column} {py : Row}

theorem pixel_afterDrw_of_covers (h : SpriteCovers (s.spriteRows n.val) (s.reg x) (s.reg y) px py) :
    (s.afterDrw x y n).pixel px py = !s.pixel px py :=
  (pixelOf_composite s.fb _ _ (length_spriteRows_le s n) px py).1 h

theorem pixel_afterDrw_of_not_covers (h : ¬ SpriteCovers (s.spriteRows n.val) (s.reg x) (s.reg y) px py) :
    (s.afterDrw x y n).pixel px py = s.pixel px py :=
  (pixelOf_composite s.fb _ _ (length_spriteRows_le s n) px py).2 h

theorem flagByte_eq_one_iff (b : Bool) : flagByte b = 1#8 ↔ b = true := by
  cases b with
  | false => decide
  | true => decide

/-- VF after a draw is 1 iff a covered pixel was set. -/
theorem reg_VF_afterDrw_eq_one_iff : (s.afterDrw x y n).reg VF = 1#8 ↔
    ∃ px py, SpriteCovers (s.spriteRows n.val) (s.reg x) (s.reg y) px py ∧ s.pixel px py = true := by
  rw [reg_VF_afterDrw, flagByte_eq_one_iff, hit_composite _ _ _ (length_spriteRows_le s n)]
  rfl

theorem reg_VF_afterDrw_eq_zero_or_one : (s.afterDrw x y n).reg VF = 0#8 ∨ (s.afterDrw x y n).reg VF = 1#8 := by
  rw [reg_VF_afterDrw]
  exact flagByte_eq_zero_or_one _

/-! ### A second draw of the same sprite -/

/-- A draw moves neither the sprite nor, with coordinates in registers other than VF, the place it is drawn at. -/
theorem spriteCovers_afterDrw (hx : x ≠ VF) (hy : y ≠ VF) :
    SpriteCovers ((s.afterDrw x y n).spriteRows n.val) ((s.afterDrw x y n).reg x) ((s.afterDrw x y n).reg y) px py ↔
      SpriteCovers (s.spriteRows n.val) (s.reg x) (s.reg y) px py := by
  have hkeeps := afterDrw_keeps s x y n
  rw [hkeeps.regs x (List.mem_singleton.not.2 hx), hkeeps.regs y (List.mem_singleton.not.2 hy)]
  rfl

/-- A pixel that the sprite covers is toggled twice, and any other not at all. -/
theorem fb_afterDrw_afterDrw (hx : x ≠ VF) (hy : y ≠ VF) : ((s.afterDrw x y n).afterDrw x y n).fb = s.fb := by
  refine screen_ext fun px py => ?_
  change ((s.afterDrw x y n).afterDrw x y n).pixel px py = s.pixel px py
  by_cases h : SpriteCovers (s.spriteRows n.val) (s.reg x) (s.reg y) px py
  · rw [pixel_afterDrw_of_covers ((spriteCovers_afterDrw hx hy).2 h), pixel_afterDrw_of_covers h, Bool.not_not]
  · rw [pixel_afterDrw_of_not_covers ((spriteCovers_afterDrw hx hy).not.2 h), pixel_afterDrw_of_not_covers h]

/-- The second draw meets a set pixel where the first set one, that is, toggled a pixel that was 0. -/
theorem reg_VF_afterDrw_afterDrw_eq_one_iff (hx : x ≠ VF) (hy : y ≠ VF) :
    ((s.afterDrw x y n).afterDrw x y n).reg VF = 1#8 ↔
      ∃ px py, SpriteCovers (s.spriteRows n.val) (s.reg x) (s.reg y) px py ∧ s.pixel px py = false := by
  rw [reg_VF_afterDrw_eq_one_iff]
  refine exists_congr fun px => exists_congr fun py => ?_
  rw [spriteCovers_afterDrw hx hy]
  refine and_congr_right fun h => ?_
  rw [pixel_afterDrw_of_covers h, Bool.not_eq_true']

end Drw

/-! ### The 1 bits of a sprite -/

/-- A byte is not 0 iff it has a 1 bit, counted from the left as a sprite's columns are. -/
theorem byte_ne_zero_iff (row : Byte) : row ≠ 0#8 ↔ ∃ c < 8, row.getLsbD (7 - c) = true := by
  constructor
  · contrapose!
    intro h
    refine BitVec.eq_of_getLsbD_eq fun k hk => ?_
    have hbit := h (7 - k) (by omega)
    rw [show 7 - (7 - k) = k by omega] at hbit
    rw [BitVec.getLsbD_zero, Bool.eq_false_iff.2 hbit]
  · rintro ⟨c, -, hbit⟩ rfl
    rw [BitVec.getLsbD_zero] at hbit
    cases hbit

/-- A sprite covers some pixel iff it has a 1 bit: wherever it is drawn, wrapping puts each bit on the screen. -/
theorem exists_spriteCovers_iff (rows : List Byte) (x0 y0 : Byte) :
    (∃ px py, SpriteCovers rows x0 y0 px py) ↔ ∃ row ∈ rows, row ≠ 0#8 := by
  constructor
  · rintro ⟨px, py, r, c, hr, hc, hbit, -, -⟩
    rw [List.getD_eq_getElem _ _ hr] at hbit
    exact ⟨rows[r], List.getElem_mem hr, (byte_ne_zero_iff _).2 ⟨c, hc, hbit⟩⟩
  · rintro ⟨row, hmem, hne⟩
    obtain ⟨r, hr, rfl⟩ := List.mem_iff_getElem.1 hmem
    obtain ⟨c, hc, hbit⟩ := (byte_ne_zero_iff _).1 hne
    rw [← List.getD_eq_getElem _ 0#8 hr] at hbit
    exact ⟨wrapColumn (x0.toNat + c), wrapRow (y0.toNat + r), r, c, hr, hc, hbit, rfl, rfl⟩

/-! ### The statements about DRW -/

/-- Settles O33: the compositing toggles what the sprite covers, at the coordinates of the state before the draw, and
VF is its collision bit. -/
theorem drwTogglesCoveredPixels : Obligations.DrwTogglesCoveredPixels := by
  intro x y n s h
  refine ⟨_, exec_drw_ok s x y n h, fun _ _ => pixel_afterDrw_of_covers, fun _ _ => pixel_afterDrw_of_not_covers,
    reg_VF_afterDrw_eq_one_iff.2, fun hclear => reg_VF_afterDrw_eq_zero_or_one.resolve_right fun hone => ?_⟩
  obtain ⟨px, py, hcovers, hset⟩ := reg_VF_afterDrw_eq_one_iff.1 hone
  exact Bool.eq_false_iff.1 (hclear px py hcovers) hset

/-- Settles O34: the screen, `redraw`, VF and `PC` are all that a completed draw writes, and compositing no rows gives
the same screen without a collision; a sprite byte out of memory is the fault entry. -/
theorem drwFrameAndFault : Obligations.DrwFrameAndFault := by
  intro x y n s
  refine ⟨fun h => ?_, fun hn habove => exec_drw_fault s x y n hn (by omega)⟩
  refine ⟨_, exec_drw_ok s x y n h, reg_VF_afterDrw_eq_zero_or_one, rfl, rfl, fun hn => ⟨?_, ?_⟩,
    afterDrw_keeps s x y n⟩
  · rw [State.afterDrw, spriteRows_of_height_zero s hn]
    rfl
  · rw [reg_VF_afterDrw, spriteRows_of_height_zero s hn]
    rfl

/-- Settles O35: the second draw toggles the same pixels back; on a blank screen every covered pixel is one that the
first draw set, and there is one iff the sprite has a 1 bit. -/
theorem drwTwiceRestoresScreen : Obligations.DrwTwiceRestoresScreen := by
  intro x y n s t hx hy h hfirst
  obtain rfl := Host.Outcome.next.inj ((exec_drw_ok s x y n h).symm.trans hfirst)
  refine ⟨_, exec_drw_ok (s.afterDrw x y n) x y n h, fb_afterDrw_afterDrw hx hy,
    reg_VF_afterDrw_afterDrw_eq_one_iff hx hy, fun hblank => ?_⟩
  rw [reg_VF_afterDrw_afterDrw_eq_one_iff hx hy, ← exists_spriteCovers_iff _ (s.reg x) (s.reg y)]
  simp only [hblank, and_true]

end Sys2Proof.Machine
end

section
/-! PROOF. The key instructions (46_keys.md): SKP and SKNP skip on the latch and fault on a value that is no key code;
LD Vx, K takes the lowest held key or leaves the whole state as it is. -/

namespace Sys2Proof.Machine

/-! ### SKP and SKNP (R180, R181) -/

section KeySkips

variable {x : Reg} {s : State}

/-- The number of a key passes the index check as that key. -/
theorem checkIndex_key {v : Byte} {k : KeyCode} (h : v.toNat = k.val) :
    checkIndex .keyIndex Config.numKeys v = .ok k := by
  have hlt : v.toNat < Config.numKeys := h ▸ k.isLt
  rw [checkIndex_ok hlt]
  exact congrArg Except.ok (Fin.ext h)

theorem exec_skp_ok {k : KeyCode} (h : (s.reg x).toNat = k.val) :
    exec (.skp x) s = .next (s.skipIf (s.key k)) := by
  rw [exec, execSkp, checkIndex_key h]

theorem exec_sknp_ok {k : KeyCode} (h : (s.reg x).toNat = k.val) :
    exec (.sknp x) s = .next (s.skipIf (!s.key k)) := by
  rw [exec, execSknp, checkIndex_key h]

theorem exec_skp_fault (h : ¬ (s.reg x).toNat < 16) :
    exec (.skp x) s = takeFault (.bounds .keyIndex (s.reg x).toNat) s := by
  rw [exec, execSkp, checkIndex_error h]

theorem exec_sknp_fault (h : ¬ (s.reg x).toNat < 16) :
    exec (.sknp x) s = takeFault (.bounds .keyIndex (s.reg x).toNat) s := by
  rw [exec, execSknp, checkIndex_error h]

end KeySkips

/-- Settles O36: the two skips test the latch and its complement, so SKNP's outcomes are SKP's the other way round; a
value above 15 is the fault entry. -/
theorem keySkipsTestLatch : Obligations.KeySkipsTestLatch := by
  intro x s
  refine ⟨fun k hk => ⟨⟨_, exec_skp_ok hk, skipIf_spec s Iff.rfl⟩, ⟨_, exec_sknp_ok hk, ?_⟩⟩, fun habove => ?_⟩
  · obtain ⟨hpc, hkeeps⟩ := skipIf_spec s (Bool.not_iff_not (b := s.key k))
    exact ⟨hpc.trans (ite_not _ _ _), hkeeps⟩
  · have hno : ¬ (s.reg x).toNat < 16 := Nat.not_lt.2 habove
    exact ⟨exec_skp_fault hno, exec_sknp_fault hno⟩

/-! ### LD Vx, K (R182) -/

section KeyWait

variable {x : Reg} {s : State}

theorem exec_ldVxK_held {k : KeyCode} (h : s.lowestKey = some k) :
    exec (.ldVxK x) s = .next (s.setReg x (keyByte k)).next := by
  rw [exec, execLdVxK, h]

theorem exec_ldVxK_hold (h : ∀ k, s.key k = false) : exec (.ldVxK x) s = .next s := by
  rw [exec, execLdVxK, lowestKey_eq_none.2 h]

/-- A key code is below 256, so as a register value it is the same number. -/
theorem toNat_keyByte (k : KeyCode) : (keyByte k).toNat = k.val :=
  Nat.mod_eq_of_lt (Nat.lt_trans k.isLt (by decide))

/-- With some key held, one is the lowest. -/
theorem exists_lowestKey (h : ∃ k, s.key k = true) : ∃ k, s.lowestKey = some k := by
  obtain ⟨j, hj⟩ := h
  refine Option.ne_none_iff_exists'.1 fun hnone => ?_
  cases hj.symm.trans (lowestKey_eq_none.1 hnone j)

end KeyWait

/-- Settles O37: with a lowest held key LD Vx, K is a plain register write of its code; with none it writes nothing. -/
theorem ldVxKTakesLowestKey : Obligations.LdVxKTakesLowestKey := by
  intro x s
  refine ⟨fun k hk hlow => ?_, exec_ldVxK_hold⟩
  obtain ⟨hreg, hpc, hkeeps⟩ := setReg_next_spec s x (keyByte k)
  refine ⟨_, exec_ldVxK_held (lowestKey_eq_some.2 ⟨hk, hlow⟩), ?_, hpc, hkeeps⟩
  rw [hreg, toNat_keyByte]

/-- The end of a step writes no register. -/
@[simp] theorem State.finish_reg (s : State) (r : Reg) : s.finish.reg r = s.reg r := by
  obtain h | h := s.finish_eq_tick_or_self
  · rw [h, State.tick_reg]
  · rw [h]

/-- Settles O38: a wait leaves the state to the tick; with a key held the instruction is that of O37, and the tick
touches neither `V[x]` nor `PC`. -/
theorem keyWaitHoldsAndTicks : Obligations.KeyWaitHoldsAndTicks := by
  intro x s hrun hfetch
  refine ⟨fun hnone => ?_, fun hheld => ?_⟩
  · rw [step_of_fetch hrun hfetch (exec_ldVxK_hold hnone), finish_of_running hrun]
    rfl
  · obtain ⟨k, hlow⟩ := exists_lowestKey hheld
    obtain ⟨hk, hbelow⟩ := lowestKey_eq_some.1 hlow
    obtain ⟨hwrite, -⟩ := ldVxKTakesLowestKey x s
    obtain ⟨t, hexec, hreg, hpc, -⟩ := hwrite k hk hbelow
    refine ⟨_, step_of_fetch hrun hfetch hexec, ?_, k, hk, ?_⟩
    · rw [State.finish_pc, hpc]
    · rw [State.finish_reg, hreg]

end Sys2Proof.Machine
end

section
/-! PROOF. Timers, BCD and the bulk transfers (47_timers_bcd_bulk.md): the timer instructions act before the tick of
their step; the two stores write the bytes from `I` upward and the load reads them, or take the fault as a whole. -/

namespace Sys2Proof.Machine

/-! ### Stores from `I` upward (R193, R194) -/

theorem mem_addresses {a base n : Nat} : a ∈ addresses base n ↔ base ≤ a ∧ a < base + n := by
  simp only [addresses, List.mem_map, List.mem_range]
  constructor
  · rintro ⟨k, hk, rfl⟩
    omega
  · rintro ⟨hlow, hhigh⟩
    exact ⟨a - base, by omega, by omega⟩

/-- The memory may change at the addresses that the footprint names. -/
theorem Keeps.setMem {f : Footprint} {s t : State} (h : Keeps f s t) {m : Memory}
    (hm : ∀ a, a ∉ f.bytes → Memory.read m a = t.readByte a) : Keeps f s (t.setMem m) :=
  { h with bytes := fun a ha => (hm a ha).trans (h.bytes a ha) }

/-- The state in which a store of the bytes from `I` upward completes (`exec_ldB_ok`, `exec_storeRegs_ok`). -/
def State.afterStore (s : State) (bytes : List Byte) : State :=
  (s.setMem (Memory.writeBytes s.mem s.index.toNat bytes)).next

/-- What both storing instructions do inside the memory: the bytes stand from `I` upward, `PC` goes up by 2, and nothing
else changes (R82). -/
theorem afterStore_spec {s : State} {bytes : List Byte} (hm : Memory.wf s.mem = true)
    (hb : s.index.toNat + bytes.length ≤ 4096) :
    (∀ k < bytes.length, (s.afterStore bytes).readByte (s.index.toNat + k) = bytes.getD k 0#8) ∧
      (s.afterStore bytes).pc = s.pc + 2#16 ∧
      Keeps { bytes := addresses s.index.toNat bytes.length } s (s.afterStore bytes) := by
  refine ⟨fun k hk => Memory.read_writeBytes_add hm hb hk, rfl, ((Keeps.refl _ s).setMem fun a ha => ?_).setPc _⟩
  rw [mem_addresses] at ha
  rw [Memory.read_writeBytes hm (.inr hb)]
  split
  · exact List.getD_eq_default _ _ (by omega)
  · rfl

theorem length_bcdDigits (v : Byte) : (bcdDigits v).length = 3 := rfl

/-- With a digit's place at 4096 or above, LD B is the fault entry of the write (D17). -/
theorem exec_ldB_fault {x : Reg} {s : State} (h : 4096 ≤ s.index.toNat + 2) :
    exec (.ldB x) s = takeFault (.bounds .memWrite (max 4096 s.index.toNat)) s := by
  have hlen := length_bcdDigits (s.reg x)
  rw [exec, execLdB, writeFromIndex_error (by omega) (show 4096 < _ by omega)]

/-- With a byte's place at 4096 or above, LD [I], Vx is the fault entry of the write (D17). -/
theorem exec_storeRegs_fault {x : Reg} {s : State} (h : 4096 ≤ s.index.toNat + x.val) :
    exec (.storeRegs x) s = takeFault (.bounds .memWrite (max 4096 s.index.toNat)) s := by
  have hlen := s.length_regsUpTo x
  rw [exec, execStoreRegs, writeFromIndex_error (by omega) (show 4096 < _ by omega)]

/-- Each digit of a byte is below 10, so as a byte it is the same number (R193). -/
theorem toNat_bcdDigits (v : Byte) :
    ((bcdDigits v).getD 0 0#8).toNat = v.toNat / 100 ∧ ((bcdDigits v).getD 1 0#8).toNat = v.toNat / 10 % 10 ∧
      ((bcdDigits v).getD 2 0#8).toNat = v.toNat % 10 := by
  have hv := v.isLt
  simp only [bcdDigits, List.getD_cons_zero, List.getD_cons_succ, BitVec.toNat_ofNat]
  omega

/-- Settles O41: LD B is a store of the three digits; with a digit's place out of memory it is the fault entry. -/
theorem ldBStoresDigits : Obligations.LdBStoresDigits := by
  refine fun x s hm => ⟨fun hin => ?_, exec_ldB_fault⟩
  obtain ⟨hbytes, hpc, hkeeps⟩ := afterStore_spec (bytes := bcdDigits (s.reg x)) hm hin
  obtain ⟨hhundreds, htens, hones⟩ := toNat_bcdDigits (s.reg x)
  refine ⟨s.afterStore (bcdDigits (s.reg x)), exec_ldB_ok hin, ?_, ?_, ?_, hpc, hkeeps⟩
  · rw [← hhundreds, ← hbytes 0 (show 0 < 3 by decide), Nat.add_zero]
  · rw [← htens, ← hbytes 1 (show 1 < 3 by decide)]
  · rw [← hones, ← hbytes 2 (show 2 < 3 by decide)]

/-- Settles O42: LD [I], Vx is a store of the block of registers, whose byte `k` is `V[k]`; with a byte's place out of
memory it is the fault entry. -/
theorem storeRegsWritesBlock : Obligations.StoreRegsWritesBlock := by
  refine fun x s hm => ⟨fun hin => ?_, exec_storeRegs_fault⟩
  have hlen := s.length_regsUpTo x
  obtain ⟨hbytes, hpc, hkeeps⟩ := afterStore_spec (bytes := s.regsUpTo x) hm (by omega)
  rw [hlen] at hbytes hkeeps
  refine ⟨s.afterStore (s.regsUpTo x), exec_storeRegs_ok hin, fun k hk => ?_, hpc, hkeeps⟩
  rw [hbytes k.val (Nat.lt_succ_of_le hk), s.getD_regsUpTo hk]

/-! ### The load from `I` upward (R195) -/

/-- The registers may change where the footprint names them. -/
theorem Keeps.withRegs {f : Footprint} {s t : State} (h : Keeps f s t) (regs : Vector Byte 16)
    (hregs : ∀ r : Reg, r ∉ f.regs → regs[r] = s.reg r) : Keeps f s { t with regs := regs } :=
  { h with regs := hregs }

/-- A block load changes `V0` to `Vx` alone. -/
theorem Keeps.setRegsUpTo {f : Footprint} {s t : State} (h : Keeps f s t) {x : Reg} (hx : ∀ k ≤ x, k ∈ f.regs)
    (bytes : List Byte) : Keeps f s (t.setRegsUpTo x bytes) :=
  h.withRegs _ fun r hr => by
    have habove : ¬ r ≤ x := fun hle => hr (hx r hle)
    exact (t.reg_setRegsUpTo x r bytes).trans ((if_neg habove).trans (h.regs r hr))

/-- With its block in memory, LD Vx, [I] loads it and goes on (R195). -/
theorem exec_loadRegs_ok {x : Reg} {s : State} (h : s.index.toNat + x.val < 4096) :
    exec (.loadRegs x) s =
      .next (s.setRegsUpTo x (Memory.readBytes s.mem s.index.toNat (x.val + 1))).next := by
  rw [exec, execLoadRegs, readFromIndex_ok (.inr h)]

/-- With a byte at 4096 or above, LD Vx, [I] is the fault entry of the read (D17). -/
theorem exec_loadRegs_fault {x : Reg} {s : State} (h : 4096 ≤ s.index.toNat + x.val) :
    exec (.loadRegs x) s = takeFault (.bounds .memRead (max 4096 s.index.toNat)) s := by
  rw [exec, execLoadRegs, readFromIndex_error (Nat.succ_ne_zero _) (Nat.lt_succ_of_le h)]

/-- Settles O43: LD Vx, [I] replaces the block of registers by the bytes read; with a byte out of memory it is the
fault entry. -/
theorem loadRegsReadsBlock : Obligations.LoadRegsReadsBlock := by
  refine fun x s => ⟨fun hin => ?_, exec_loadRegs_fault⟩
  refine ⟨_, exec_loadRegs_ok hin, fun k hk => ?_, rfl, ((Keeps.refl _ s).setRegsUpTo (fun k hk => ?_) _).setPc _⟩
  · rw [State.next_reg, State.reg_setRegsUpTo, if_pos hk, List.getD_eq_getElem?_getD,
      Memory.getElem?_readBytes _ (Nat.lt_succ_of_le hk)]
    rfl
  · exact List.mem_filter.2 ⟨List.mem_finRange k, decide_eq_true hk⟩

/-- Settles O44: the load reads, at the addresses that the store wrote, the registers stored there (O42, O43); neither
writes `I`. -/
theorem storeThenLoadRoundTrips : Obligations.StoreThenLoadRoundTrips := by
  intro x s t u hm hin hstore hmem hindex
  obtain ⟨t', hstore', hbytes, -, hkeeps⟩ := (storeRegsWritesBlock x s hm).1 hin
  obtain rfl : t' = t := Host.Outcome.next.inj (hstore'.symm.trans hstore)
  have hidx : u.index = s.index := hindex.trans (hkeeps.index rfl)
  obtain ⟨v, hload, hregs, -, hkeepsLoad⟩ := (loadRegsReadsBlock x u).1 (hidx ▸ hin)
  refine ⟨v, hload, fun k hk => ?_, (hkeepsLoad.index rfl).trans hidx⟩
  rw [hregs k hk, State.readByte, hmem, hidx]
  exact hbytes k hk

/-! ### The timers (R190 to R192) -/

section Timers

variable {f : Footprint} {s t : State}

/-- `DT` may change where the footprint names it. -/
theorem Keeps.setDT (h : Keeps f s t) (hf : f.delay = true) (v : Byte) : Keeps f s (t.setDT v) :=
  { h with delay := fun hn => absurd (hf.symm.trans hn) (by decide) }

/-- `ST` may change where the footprint names it. -/
theorem Keeps.setST (h : Keeps f s t) (hf : f.sound = true) (v : Byte) : Keeps f s (t.setST v) :=
  { h with sound := fun hn => absurd (hf.symm.trans hn) (by decide) }

/-- An instruction that completes within a footprint leaves the machine running, so the step ends in the tick (R81). -/
theorem step_of_keeps {i : Instr} (hrun : s.status = .running) (hfetch : fetchInstr s = .ok i)
    (hexec : exec i s = .next t) (hkeeps : Keeps f s t) : step s = .next t.tick := by
  rw [step_of_fetch hrun hfetch hexec, finish_of_running (hkeeps.status.trans hrun)]

end Timers

/-- Settles O39: LD Vx, DT is a plain register write of `DT`, and the tick that follows lowers `DT` alone. -/
theorem ldVxDTReadsTimer : Obligations.LdVxDTReadsTimer := by
  intro x s
  have hspec := setReg_next_spec s x s.dt
  refine ⟨⟨_, rfl, hspec⟩, fun hrun hfetch => ?_⟩
  obtain ⟨hreg, -, hkeeps⟩ := hspec
  have htick := toNat_tickTimer s.dt
  refine ⟨_, step_of_keeps hrun hfetch rfl hkeeps, hreg, fun hne => ?_, fun hzero => ?_⟩
  · rw [State.tick_reg, hreg]
    exact (show s.dt.toNat = (tickTimer s.dt).toNat + 1 by omega)
  · exact ⟨hreg.trans (BitVec.eq_of_toNat_eq hzero),
      BitVec.eq_of_toNat_eq (show (tickTimer s.dt).toNat = 0 by omega)⟩

/-- Settles O40: each instruction is the write of its timer, and the tick that follows lowers both timers. -/
theorem timerSetsThenTick : Obligations.TimerSetsThenTick := by
  intro x s
  have hdelay : Keeps { delay := true } s (s.setDT (s.reg x)).next := ((Keeps.refl _ s).setDT rfl _).setPc _
  have hsound : Keeps { sound := true } s (s.setST (s.reg x)).next := ((Keeps.refl _ s).setST rfl _).setPc _
  refine ⟨⟨_, rfl, rfl, rfl, hdelay⟩, ⟨_, rfl, rfl, rfl, hsound⟩, fun hrun hfetch => ?_, fun hrun hfetch => ?_⟩
  · exact ⟨_, step_of_keeps hrun hfetch rfl hdelay, toNat_tickTimer (s.reg x), toNat_tickTimer s.st⟩
  · exact ⟨_, step_of_keeps hrun hfetch rfl hsound, toNat_tickTimer (s.reg x), toNat_tickTimer s.dt⟩

end Sys2Proof.Machine
end

section
/-! PROOF. Faults (60_exceptions.md): which instructions can fault, that a recorded fault names a row of R201 to R203
that holds of the state it left unchanged, and that both timers tick once in every step that did not fault. -/

namespace Sys2Proof.Machine

/-- Settles O50: an instruction that is not of R203's table completes, and no completion changes `status`. -/
theorem onlyNamedInstructionsFault : Obligations.OnlyNamedInstructionsFault := by
  intro i s hno
  obtain ⟨t, he, hc⟩ | ⟨hmay, -⟩ := exec_completes_or_faults i s
  · exact ⟨t, he, hc.status⟩
  · cases hno.symm.trans hmay

/-! ### The causes of the fetch and the decode (R61, R202) -/

section Fetched

variable {s : State}

/-- An instruction is fetched by reading a word and decoding it. -/
theorem fetchInstr_eq_ok {i : Instr} (h : fetchInstr s = .ok i) :
    ∃ w, fetchWord s = .ok w ∧ decodeWord w = .ok i := by
  cases hw : fetchWord s with
  | error c => cases (fetchInstr_of_fetch_error hw).symm.trans h
  | ok w =>
    cases hd : decodeWord w with
    | error e => cases (fetchInstr_of_decode_error hw hd).symm.trans h
    | ok j =>
      obtain rfl := Except.ok.inj ((fetchInstr_of_decode_ok hw hd).symm.trans h)
      exact ⟨w, rfl, hd⟩

/-- A fetch fails because it reaches address 4096, or because the word it read decodes to nothing and is illegal. -/
theorem explains_of_fetch_error {c : Cause} (h : fetchInstr s = .error c) : Explains s c := by
  by_cases hpc : 4096 ≤ s.pc.toNat + 1
  · obtain rfl := Except.error.inj ((fetchInstr_of_fetch_error (fetchWord_error hpc)).symm.trans h)
    exact ⟨hpc, rfl⟩
  · have hw := fetchWord_ok (Nat.lt_of_not_le hpc)
    cases hd : decodeWord (wordOfBytes (s.readByte s.pc.toNat) (s.readByte (s.pc.toNat + 1))) with
    | ok i => cases (fetchInstr_of_decode_ok hw hd).symm.trans h
    | error e =>
      obtain rfl := Except.error.inj ((fetchInstr_of_decode_error hw hd).symm.trans h)
      exact ⟨hw, (illegalWordsAreThoseListed _).2 fun i hi => by cases hd.symm.trans hi⟩

/-- The word of a fetched SYS is the one its fault records, and it is illegal (R68, R100). -/
theorem explains_of_fetched_sys {nnn : Addr} (h : fetchInstr s = .ok (.sys nnn)) :
    Explains s (.decodeFault (encode (.sys nnn))) := by
  obtain ⟨w, hw, hd⟩ := fetchInstr_eq_ok h
  obtain ⟨rfl, -⟩ := decodedInstrEncodesBack w _ hd
  exact ⟨hw, (illegalWordsAreThoseListed _).2 fun i hi => ⟨nnn, Except.ok.inj (hi.symm.trans hd)⟩⟩

/-! ### The causes of the instructions (R203) -/

/-- A fetched instruction completes and leaves `status` alone, or takes a fault that its row of R203 explains. -/
theorem exec_completes_or_explained {i : Instr} (hf : fetchInstr s = .ok i) :
    (∃ t, exec i s = .next t ∧ t.status = s.status) ∨ ∃ c, exec i s = takeFault c s ∧ Explains s c := by
  cases i with
  | sys nnn => exact .inr ⟨_, rfl, explains_of_fetched_sys hf⟩
  | ret =>
    by_cases hempty : s.sp.val = 0
    · exact .inr ⟨_, exec_ret_empty hempty, rfl, hempty, hf⟩
    · exact .inl ⟨_, exec_ret_ok hempty, rfl⟩
  | call nnn =>
    by_cases hfull : s.sp.val = 16
    · exact .inr ⟨_, exec_call_full nnn hfull, rfl, hfull, nnn, hf⟩
    · exact .inl ⟨_, exec_call_ok nnn (Nat.lt_of_le_of_ne s.sp_le hfull), rfl⟩
  | drw x y n =>
    by_cases hin : n.val = 0 ∨ s.index.toNat + n.val ≤ 4096
    · exact .inl ⟨_, exec_drw_ok s x y n hin, rfl⟩
    · refine .inr ⟨_, exec_drw_fault s x y n (by omega) (by omega), rfl, .inl ⟨x, y, n, hf, by omega, ?_⟩⟩
      exact (show 4096 ≤ s.index.toNat + (n.val - 1) by omega)
  | skp x =>
    by_cases hkey : (s.reg x).toNat < 16
    · exact .inl ⟨_, exec_skp_ok (k := ⟨_, hkey⟩) rfl, State.skipIf_status _ _⟩
    · exact .inr ⟨_, exec_skp_fault hkey, x, .inl hf, rfl, Nat.le_of_not_lt hkey⟩
  | sknp x =>
    by_cases hkey : (s.reg x).toNat < 16
    · exact .inl ⟨_, exec_sknp_ok (k := ⟨_, hkey⟩) rfl, State.skipIf_status _ _⟩
    · exact .inr ⟨_, exec_sknp_fault hkey, x, .inr hf, rfl, Nat.le_of_not_lt hkey⟩
  | ldF x =>
    by_cases hdigit : (s.reg x).toNat < 16
    · exact .inl ⟨_, exec_ldF_ok hdigit, rfl⟩
    · exact .inr ⟨_, exec_ldF_fault hdigit, x, hf, rfl, Nat.le_of_not_lt hdigit⟩
  | ldB x =>
    by_cases hin : s.index.toNat + 2 < 4096
    · exact .inl ⟨_, exec_ldB_ok hin, rfl⟩
    · have hout := Nat.le_of_not_lt hin
      exact .inr ⟨_, exec_ldB_fault hout, rfl, .inl ⟨x, hf, hout⟩⟩
  | storeRegs x =>
    by_cases hin : s.index.toNat + x.val < 4096
    · exact .inl ⟨_, exec_storeRegs_ok hin, rfl⟩
    · have hout := Nat.le_of_not_lt hin
      exact .inr ⟨_, exec_storeRegs_fault hout, rfl, .inr ⟨x, hf, hout⟩⟩
  | loadRegs x =>
    by_cases hin : s.index.toNat + x.val < 4096
    · exact .inl ⟨_, exec_loadRegs_ok hin, rfl⟩
    · have hout := Nat.le_of_not_lt hin
      exact .inr ⟨_, exec_loadRegs_fault hout, rfl, .inr ⟨x, hf, hout⟩⟩
  | _ => exact .inl (onlyNamedInstructionsFault _ s rfl)

/-! ### From the cause to the record (R205) -/

theorem faultExplained_of_running (h : s.status = .running) : FaultExplained s := by
  rw [FaultExplained, h]
  trivial

/-- No row of R201 to R203 speaks of `status`, so a cause explained before the fault entry is explained after it. -/
theorem faultExplained_of_explains {c : Cause} (h : Explains s c) : FaultExplained (s.setStatus (.faulted c)) :=
  h

end Fetched

/-- Settles O57: a faulted machine keeps its record and its state; a running one gets a record only from the fetch, the
decode or the instruction fetched, each of which records the row that holds of the state. -/
theorem faultRecordStaysExplained : Obligations.FaultRecordStaysExplained := by
  intro s t hs h
  obtain ⟨-, -, rfl⟩ | ⟨-, c, hf, rfl⟩ | ⟨hrun, i, u, hf, he, rfl⟩ := step_cases h
  · exact hs
  · exact faultExplained_of_explains (explains_of_fetch_error hf)
  · obtain ⟨v, hv, hstatus⟩ | ⟨c, hc, hex⟩ := exec_completes_or_explained hf
    · obtain rfl := Host.Outcome.next.inj (hv.symm.trans he)
      exact faultExplained_of_running (v.finish_status.trans (hstatus.trans hrun))
    · obtain rfl := Host.Outcome.next.inj (hc.symm.trans he)
      exact faultExplained_of_explains hex

/-! ### The timers (R220) -/

/-- "Down by 1 if above 0" is subtraction on the natural numbers, which stops at 0. -/
theorem toNat_tickTimer_eq_ite (v : Byte) :
    (tickTimer v).toNat = if v.toNat > 0 then v.toNat - 1 else v.toNat := by
  rw [toNat_tickTimer]
  split <;> omega

/-- Settles O11: a step that did not fault ends in the tick, which writes the timers alone; one that faults changes
`status` alone, and one that starts in a fault changes nothing. -/
theorem timersTickOncePerStep : Obligations.TimersTickOncePerStep := by
  refine ⟨fun s u i hrun hf he hu => ?_, fun s t c h ht => ?_⟩
  · have hstep := step_of_fetch hrun hf he
    rw [finish_of_running hu] at hstep
    exact ⟨_, hstep, toNat_tickTimer_eq_ite u.dt, toNat_tickTimer_eq_ite u.st, rfl⟩
  · cases hs : s.status with
    | faulted c' =>
      obtain rfl := Host.Outcome.next.inj ((faultedMachineDoesNothing s c' hs).symm.trans h)
      exact ⟨rfl, rfl⟩
    | running =>
      obtain ⟨t', h', hprecise⟩ := everyStepAnswersAndFaultsPrecisely s
      obtain rfl := Host.Outcome.next.inj (h'.symm.trans h)
      obtain rfl := hprecise c hs ht
      exact ⟨rfl, rfl⟩

end Sys2Proof.Machine
end

section
/-! PROOF. Reset and program load (70_reset_and_hazards.md), and the host's moves (R225): what each leaves in the state,
and that the invariant is kept. -/

namespace Sys2Proof.Machine

/-! ### The memory after reset (R27) -/

/-- Outside the font the memory after reset is 0. -/
theorem initialByte_eq_zero {a : Nat} (h : a < fontBase ∨ fontBase + 80 ≤ a) : initialByte a = 0#8 := by
  rw [initialByte]
  split
  · exact List.getD_eq_default _ _ (show 80 ≤ a - fontBase by omega)
  · rfl

/-- Inside the font it is the font's byte. -/
theorem getElem?_fontBytes {k : Nat} (h : k < 80) : fontBytes[k]? = some (initialByte (fontBase + k)) := by
  rw [initialByte, if_pos (Nat.le_add_right _ _), Nat.add_sub_cancel_left, List.getD_eq_getElem _ _ h]
  exact List.getElem?_eq_getElem h

/-- After a reset no byte is listed, so every one reads as its reset contents. -/
@[simp] theorem readByte_hostReset (s : State) (a : Nat) : s.hostReset.readByte a = initialByte a := rfl

/-- The word fetched after a reset is 0: nothing is loaded at 0x200. -/
theorem fetchWord_hostReset (s : State) : fetchWord s.hostReset = .ok 0x0000#16 :=
  (fetchWord_congr (s := State.reset) rfl rfl).trans rfl

/-- Settles O58: the fields are those of the reset state, and the word 0 at 0x200 is illegal. -/
theorem resetClearsEverything : Obligations.ResetClearsEverything := by
  intro s
  refine ⟨fun r => Vector.getElem_replicate _, rfl, rfl, rfl, fun k => Vector.getElem_replicate _, rfl, rfl,
    fun k => Vector.getElem_replicate _, pixelOf_blankScreen, rfl, fun k => getElem?_fontBytes,
    fun a => initialByte_eq_zero, rfl, ?_⟩
  exact illegalWordFaults _ _ rfl (fetchWord_hostReset s) (by decide)

/-! ### The two outcomes of a load (R233, R235) -/

section Load

variable {image : List Byte} (s : State)

theorem loadProgram_oversized (h : 3584 < image.length) :
    s.loadProgram image = s.faultedBy (.loadError image.length) := if_pos h

theorem loadProgram_fitting (h : image.length ≤ 3584) :
    s.loadProgram image = s.hostReset.setMem (Memory.writeBytes [] 0x200 image) := if_neg (Nat.not_lt.2 h)

/-- After a load that fits, a byte at or above 0x200 is the image's, or as after reset beyond it; a byte below 0x200 is
as after reset (R233, R234). -/
theorem readByte_loadProgram (h : image.length ≤ 3584) (a : Nat) :
    (s.loadProgram image).readByte a =
      if 0x200 ≤ a then image.getD (a - 0x200) (initialByte a) else initialByte a := by
  rw [loadProgram_fitting s h]
  exact Memory.read_writeBytes wf_reset (.inr (show 0x200 + image.length ≤ 4096 by omega)) a

end Load

/-- Settles O59: the load is the reset followed by a store of the image; beyond the image and outside the font the
reset contents are 0. -/
theorem loadProgramCopiesImage : Obligations.LoadProgramCopiesImage := by
  intro image s hlen
  have hread := readByte_loadProgram s hlen
  refine ⟨fun k hk => ?_, fun a ha => ?_, fun a ha => ?_, ?_, ?_⟩
  · rw [hread, if_pos (Nat.le_add_right _ _), Nat.add_sub_cancel_left, List.getD_eq_getElem _ _ hk]
    exact List.getElem?_eq_getElem hk
  · rw [hread, if_pos (by omega), List.getD_eq_default _ _ (by omega)]
    exact initialByte_eq_zero (.inr (show 0x0A0 ≤ a by omega))
  · rw [hread, if_neg (by omega), readByte_hostReset]
  · rw [loadProgram_fitting s hlen]
    rfl
  · rw [loadProgram_fitting s hlen]
    rfl

/-- Settles O60: the load of an oversized image is the fault entry, and a faulted machine does nothing. -/
theorem oversizedImageOnlyFaults : Obligations.OversizedImageOnlyFaults := by
  intro image s hlen
  have hload := loadProgram_oversized s hlen
  exact ⟨hload, faultedMachineDoesNothing _ (.loadError image.length) (hload ▸ rfl)⟩

/-! ### The invariant (R225) -/

/-- The invariant speaks of nothing that a reset keeps. -/
theorem inv_hostReset (s : State) : Inv s.hostReset := invariantHoldsAtReset.congr rfl rfl rfl

/-- A load that fits is the invariant's reset state with a store inside the memory; any other changes `status` alone. -/
theorem Inv.loadProgram {s : State} (hs : Inv s) (image : List Byte) : Inv (s.loadProgram image) := by
  by_cases hlen : image.length ≤ 3584
  · rw [loadProgram_fitting s hlen]
    exact { inv_hostReset s with
      memory := Memory.wf_writeBytes wf_reset (.inr (show 0x200 + image.length ≤ 4096 by omega)) }
  · rw [loadProgram_oversized s (Nat.lt_of_not_le hlen)]
    exact hs.congr rfl rfl rfl

/-- Settles O56: a key write and a redraw clear leave memory, `PC` and the stack alone. -/
theorem invariantKeptByHostMoves : Obligations.InvariantKeptByHostMoves := by
  intro m s hs
  cases m with
  | reset => exact inv_hostReset s
  | loadProgram image => exact hs.loadProgram image
  | key k down => exact hs.congr rfl rfl rfl
  | clearRedraw => exact hs.congr rfl rfl rfl

end Sys2Proof.Machine
end
